-- ==== Sys2Proof/Word.lean ====
section
/-! DEFINITION. The word types of the core (R7): bytes, 32-bit words, the block buffer and the register files as fixed
vectors, and the two word formats of R60. Every value is unsigned; bit 0 is the least significant bit. -/

namespace Sys2Proof

/-- 8 bits, bit 7 most significant (R7). -/
abbrev Byte := BitVec 8

/-- An unsigned 32-bit word (R7). -/
abbrev Word := BitVec 32

/-- A Block: exactly 512 bits, as 64 bytes, byte 0 first (R5, R27, R43). -/
abbrev Block := Vector Byte 64

/-- The 64 schedule words of one Block (R26). -/
abbrev ScheduleWords := Vector Word 64

/-- Eight words: the HashState `H[0..7]` (R13) and the working registers `R[0..7] = a..h` (R14) have this shape. -/
abbrev HashState := Vector Word 8

/-- The 32 digest bytes (R73). -/
abbrev Digest := Vector Byte 32

/-- The 12-bit command word `cmd[11:0] = {op[3:0], data[7:0]}` (R61). -/
abbrev CommandWord := BitVec 12

/-- The 9-bit sequencer word `SEQ[8:0] = {PHASE[2:0], t[5:0]}` (R15, R65). -/
abbrev SeqWord := BitVec 9

/-- The two fixed-length formats of R60: a word the host issues, or the word of state that selects the core's
micro-operation. -/
inductive CoreWord
  | command (w : CommandWord)
  | sequencer (w : SeqWord)
  deriving DecidableEq, Repr

end Sys2Proof
end

