-- ==== Sys2Proof/Syntax.lean ====
section
/-! DEFINITION. The instructions: one constructor per row of spec/opcode_table.json. The first nineteen are command words,
issued by the host (R62, R68); the last four are micro-operations, selected by the sequencer word (R65). -/

namespace Sys2Proof

/-- One constructor per row of the opcode table. `data` is the operand byte `cmd[7:0]` of a command that ignores it; it is
kept so that no bit of a command word is lost in decoding. -/
inductive Instr
  /-- `NOP` (R151). -/
  | nop (data : Byte)
  /-- `INIT`: start a new context (R152). -/
  | init (data : Byte)
  /-- `UPDATE b`: accept one message byte (R101). -/
  | update (b : Byte)
  /-- `FINAL`: end the message and pad (R103). -/
  | final (data : Byte)
  /-- `RDDIGEST i`, the legal form, `data[7:5] = 0` (R155, R67). -/
  | rddigest (i : BitVec 5)
  /-- `RDSTAT`: read the status byte (R156). -/
  | rdstat (data : Byte)
  /-- Reserved opcode 0x6 (R157). -/
  | reserved6 (data : Byte)
  /-- Reserved opcode 0x7 (R157). -/
  | reserved7 (data : Byte)
  /-- Reserved opcode 0x8 (R157). -/
  | reserved8 (data : Byte)
  /-- Reserved opcode 0x9 (R157). -/
  | reserved9 (data : Byte)
  /-- Reserved opcode 0xA (R157). -/
  | reservedA (data : Byte)
  /-- Reserved opcode 0xB (R157). -/
  | reservedB (data : Byte)
  /-- Reserved opcode 0xC (R157). -/
  | reservedC (data : Byte)
  /-- Reserved opcode 0xD (R157). -/
  | reservedD (data : Byte)
  /-- Reserved opcode 0xE (R157). -/
  | reservedE (data : Byte)
  /-- Reserved opcode 0xF (R157). -/
  | reservedF (data : Byte)
  /-- `RDDIGEST` with the illegal operand `data[7] = 1` (R68 (b), R155). -/
  | rddigestIllegal1xx (data : Byte)
  /-- `RDDIGEST` with the illegal operand `data[7:6] = 01` (R68 (b), R155). -/
  | rddigestIllegal01x (data : Byte)
  /-- `RDDIGEST` with the illegal operand `data[7:5] = 001` (R68 (b), R155). -/
  | rddigestIllegal001 (data : Byte)
  /-- `LOAD`: take the Block and start its 64 rounds (R123). -/
  | load
  /-- `ROUND` with the round index `t` held in the sequencer (R135). -/
  | round (t : BitVec 6)
  /-- `FOLD`: add the working registers into the hash state (R137). -/
  | fold
  /-- `PAD2`: build the second padding block (R107). -/
  | pad2
  deriving DecidableEq, Repr

/-- The instructions the host issues as command words; the others are the core's micro-operations (R10, R60). -/
def Instr.isCommand : Instr → Bool
  | .nop _ | .init _ | .update _ | .final _ | .rddigest _ | .rdstat _ => true
  | .reserved6 _ | .reserved7 _ | .reserved8 _ | .reserved9 _ | .reservedA _ => true
  | .reservedB _ | .reservedC _ | .reservedD _ | .reservedE _ | .reservedF _ => true
  | .rddigestIllegal1xx _ | .rddigestIllegal01x _ | .rddigestIllegal001 _ => true
  | .load | .round _ | .fold | .pad2 => false

end Sys2Proof
end

