-- ==== Sys2Proof/WellFormed.lean ====
section
/-! DEFINITION. Which instructions are well formed. Every other operand has exactly the width of its field, so the only
checks are the three illegal-operand rows of `RDDIGEST`, whose operand byte must lie in the row (R62, R68). -/

namespace Sys2Proof

/-- The operand lies in the row of the opcode table that the constructor stands for (R62: the three illegal rows
0x480/0xF80, 0x440/0xFC0, 0x420/0xFE0 do not overlap the legal one or each other). -/
def Instr.WellFormed : Instr → Bool
  | .nop _ | .init _ | .update _ | .final _ | .rddigest _ | .rdstat _ => true
  | .reserved6 _ | .reserved7 _ | .reserved8 _ | .reserved9 _ | .reservedA _ => true
  | .reservedB _ | .reservedC _ | .reservedD _ | .reservedE _ | .reservedF _ => true
  | .rddigestIllegal1xx data => data.extractLsb' 7 1 == 0b1#1
  | .rddigestIllegal01x data => data.extractLsb' 6 2 == 0b01#2
  | .rddigestIllegal001 data => data.extractLsb' 5 3 == 0b001#3
  | .load | .round _ | .fold | .pad2 => true

end Sys2Proof
end

