-- ==== Sys2Proof/Decode.lean ====
section
/-! DEFINITION. The decoder of the two word formats and the encoder, both written from the tables of 30_encoding.md (R61,
R62, R65, R68), and the opcode table's rows as data. -/

namespace Sys2Proof

/-- Why a word selects no instruction. Only a sequencer word can: every 12-bit command word matches a row (R62). -/
inductive DecodeError
  /-- `SEQ = 000 000000`: the core is idle, no micro-operation (R65). -/
  | coreIdle
  /-- "any other": unreachable, no step (R65, R16). -/
  | unreachableSequencer
  deriving DecidableEq, Repr

/-! ## Decoding -/

/-- The opcode field `cmd[11:8]` (R61). -/
def CommandWord.op (w : CommandWord) : BitVec 4 := w.extractLsb' 8 4

/-- The operand byte `cmd[7:0]` (R61). -/
def CommandWord.data (w : CommandWord) : Byte := w.extractLsb' 0 8

/-- The phase field `SEQ[8:6]` (R65). -/
def SeqWord.phase (w : SeqWord) : BitVec 3 := w.extractLsb' 6 3

/-- The round index field `SEQ[5:0]` (R65). -/
def SeqWord.t (w : SeqWord) : BitVec 6 := w.extractLsb' 0 6

/-- Opcode 0x4: the legal form has `data[7:5] = 0` and the index in `data[4:0]`; the three illegal rows split the rest
(R62, R67, R68 (b)). -/
def decodeRddigest (data : Byte) : Instr :=
  if data.extractLsb' 7 1 = 1#1 then .rddigestIllegal1xx data
  else if data.extractLsb' 6 1 = 1#1 then .rddigestIllegal01x data
  else if data.extractLsb' 5 1 = 1#1 then .rddigestIllegal001 data
  else .rddigest (data.extractLsb' 0 5)

/-- The opcode map of R62. The last arm is `op = 0xF`, the one value the others leave. Decoding does not depend on the
mode (R69). -/
def decodeCommand (w : CommandWord) : Instr :=
  match w.op with
  | 0x0#4 => .nop w.data
  | 0x1#4 => .init w.data
  | 0x2#4 => .update w.data
  | 0x3#4 => .final w.data
  | 0x4#4 => decodeRddigest w.data
  | 0x5#4 => .rdstat w.data
  | 0x6#4 => .reserved6 w.data
  | 0x7#4 => .reserved7 w.data
  | 0x8#4 => .reserved8 w.data
  | 0x9#4 => .reserved9 w.data
  | 0xA#4 => .reservedA w.data
  | 0xB#4 => .reservedB w.data
  | 0xC#4 => .reservedC w.data
  | 0xD#4 => .reservedD w.data
  | 0xE#4 => .reservedE w.data
  | _ => .reservedF w.data

/-- The table of R65: which micro-operation a sequencer word selects. -/
def decodeSequencer (w : SeqWord) : Except DecodeError Instr :=
  if w = 0#9 then .error .coreIdle
  else if w.phase = 1#3 ∧ w.t = 0#6 then .ok .load
  else if w.phase = 2#3 then .ok (.round w.t)
  else if w.phase = 3#3 ∧ w.t = 0#6 then .ok .fold
  else if w.phase = 4#3 ∧ w.t = 0#6 then .ok .pad2
  else .error .unreachableSequencer

/-- The decoder, total on words of both formats. -/
def decode : CoreWord → Except DecodeError Instr
  | .command w => .ok (decodeCommand w)
  | .sequencer w => decodeSequencer w

/-! ## Encoding -/

/-- A command word from its opcode and operand byte: `{op, data}` (R61, R74). -/
def commandWord (op : BitVec 4) (data : Byte) : CoreWord := .command (op ++ data)

/-- A sequencer word from its phase and round index: `{PHASE, t}` (R65). -/
def sequencerWord (phase : BitVec 3) (t : BitVec 6) : CoreWord := .sequencer (phase ++ t)

/-- The word of an instruction (R62, R65, R67, R68). -/
def encode : Instr → CoreWord
  | .nop data => commandWord 0x0 data
  | .init data => commandWord 0x1 data
  | .update b => commandWord 0x2 b
  | .final data => commandWord 0x3 data
  | .rddigest i => commandWord 0x4 (0#3 ++ i)
  | .rdstat data => commandWord 0x5 data
  | .reserved6 data => commandWord 0x6 data
  | .reserved7 data => commandWord 0x7 data
  | .reserved8 data => commandWord 0x8 data
  | .reserved9 data => commandWord 0x9 data
  | .reservedA data => commandWord 0xA data
  | .reservedB data => commandWord 0xB data
  | .reservedC data => commandWord 0xC data
  | .reservedD data => commandWord 0xD data
  | .reservedE data => commandWord 0xE data
  | .reservedF data => commandWord 0xF data
  | .rddigestIllegal1xx data => commandWord 0x4 data
  | .rddigestIllegal01x data => commandWord 0x4 data
  | .rddigestIllegal001 data => commandWord 0x4 data
  | .load => sequencerWord 1 0
  | .round t => sequencerWord 2 t
  | .fold => sequencerWord 3 0
  | .pad2 => sequencerWord 4 0

/-! ## The opcode table as data -/

/-- One row of the opcode table: a word of either format lies in it when its bits under `mask` are `value`. -/
structure OpcodeRow where
  mnemonic : String
  value : CoreWord
  mask : Nat
  deriving DecidableEq, Repr

/-- The bits of a word of either format lie in the row (`match`/`mask` of R62 and R65). -/
def OpcodeRow.holds (row : OpcodeRow) : CoreWord → Bool
  | .command w =>
    match row.value with
    | .command v => w &&& BitVec.ofNat 12 row.mask == v
    | .sequencer _ => false
  | .sequencer w =>
    match row.value with
    | .sequencer v => w &&& BitVec.ofNat 9 row.mask == v
    | .command _ => false

/-- The row of the opcode table an instruction stands for (R62, R65). -/
def Instr.row : Instr → OpcodeRow
  | .nop _ => ⟨"NOP", .command 0x000, 0xF00⟩
  | .init _ => ⟨"INIT", .command 0x100, 0xF00⟩
  | .update _ => ⟨"UPDATE", .command 0x200, 0xF00⟩
  | .final _ => ⟨"FINAL", .command 0x300, 0xF00⟩
  | .rddigest _ => ⟨"RDDIGEST", .command 0x400, 0xFE0⟩
  | .rdstat _ => ⟨"RDSTAT", .command 0x500, 0xF00⟩
  | .reserved6 _ => ⟨"RESERVED_6", .command 0x600, 0xF00⟩
  | .reserved7 _ => ⟨"RESERVED_7", .command 0x700, 0xF00⟩
  | .reserved8 _ => ⟨"RESERVED_8", .command 0x800, 0xF00⟩
  | .reserved9 _ => ⟨"RESERVED_9", .command 0x900, 0xF00⟩
  | .reservedA _ => ⟨"RESERVED_A", .command 0xA00, 0xF00⟩
  | .reservedB _ => ⟨"RESERVED_B", .command 0xB00, 0xF00⟩
  | .reservedC _ => ⟨"RESERVED_C", .command 0xC00, 0xF00⟩
  | .reservedD _ => ⟨"RESERVED_D", .command 0xD00, 0xF00⟩
  | .reservedE _ => ⟨"RESERVED_E", .command 0xE00, 0xF00⟩
  | .reservedF _ => ⟨"RESERVED_F", .command 0xF00, 0xF00⟩
  | .rddigestIllegal1xx _ => ⟨"RDDIGEST_ILLEGAL_1xx", .command 0x480, 0xF80⟩
  | .rddigestIllegal01x _ => ⟨"RDDIGEST_ILLEGAL_01x", .command 0x440, 0xFC0⟩
  | .rddigestIllegal001 _ => ⟨"RDDIGEST_ILLEGAL_001", .command 0x420, 0xFE0⟩
  | .load => ⟨"LOAD", .sequencer 0x040, 0x1FF⟩
  | .round _ => ⟨"ROUND", .sequencer 0x080, 0x1C0⟩
  | .fold => ⟨"FOLD", .sequencer 0x0C0, 0x1FF⟩
  | .pad2 => ⟨"PAD2", .sequencer 0x100, 0x1FF⟩

/-- The rows of the opcode table, each once, in the table's order. -/
def opcodeRows : List OpcodeRow :=
  [Instr.nop 0, .init 0, .update 0, .final 0, .rddigest 0, .rdstat 0].map Instr.row ++
  [Instr.reserved6 0, .reserved7 0, .reserved8 0, .reserved9 0, .reservedA 0].map Instr.row ++
  [Instr.reservedB 0, .reservedC 0, .reservedD 0, .reservedE 0, .reservedF 0].map Instr.row ++
  [Instr.rddigestIllegal1xx 0, .rddigestIllegal01x 0, .rddigestIllegal001 0].map Instr.row ++
  [Instr.load, .round 0, .fold, .pad2].map Instr.row

/-! ## The opcode table's numbering -/

/-- The word of the machine that `nbits` and `w` name in the opcode table's numbering (assumption 6). The table has rows of
12 bits (command words) and of 9 bits (sequencer words), and both round up to the same 16 bits: below 12 bits it is a
sequencer word, at 12 a command word; above 12, where the format is lost in the rounding, a word in the pattern of `LOAD`,
`ROUND` or `FOLD` is read as the sequencer word, since as a command word it would be a `NOP` with a non-zero operand, which
no assembler emits (R74), and every other word as the command word (so 0x100 is `INIT`; `PAD2` needs `nbits < 12`). -/
def coreWordOfTable (nbits w : Nat) : Option CoreWord :=
  if nbits < 12 then
    if w < 512 then some (.sequencer (BitVec.ofNat 9 w)) else none
  else if w < 4096 then
    if 12 < nbits ∧ (w = 0x040 ∨ (0x080 ≤ w ∧ w ≤ 0x0C0)) then some (.sequencer (BitVec.ofNat 9 w))
    else some (.command (BitVec.ofNat 12 w))
  else none

/-- The instruction the decoder reads from the word that `nbits` and `w` name in the opcode table's numbering. -/
def decodeTableWord (nbits w : Nat) : Option Instr :=
  match coreWordOfTable nbits w with
  | some word => (decode word).toOption
  | none => none

end Sys2Proof
end

