-- ==== Sys2Proof/Config.lean ====
section
/-! DEFINITION. What is fixed for the core and never changes: the two constant tables (R28, R130 to R132), and the free
values the datapath registers hold after a reset (R190, R191). -/

namespace Sys2Proof

/-- The table of R131 as it is printed: eight rows of eight words, the row's first word in the high bits. -/
def Config.roundConstantRows : Vector (BitVec 256) 8 :=
  #v[
    0x428a2f98_71374491_b5c0fbcf_e9b5dba5_3956c25b_59f111f1_923f82a4_ab1c5ed5,
    0xd807aa98_12835b01_243185be_550c7dc3_72be5d74_80deb1fe_9bdc06a7_c19bf174,
    0xe49b69c1_efbe4786_0fc19dc6_240ca1cc_2de92c6f_4a7484aa_5cb0a9dc_76f988da,
    0x983e5152_a831c66d_b00327c8_bf597fc7_c6e00bf3_d5a79147_06ca6351_14292967,
    0x27b70a85_2e1b2138_4d2c6dfc_53380d13_650a7354_766a0abb_81c2c92e_92722c85,
    0xa2bfe8a1_a81a664b_c24b8b70_c76c51a3_d192e819_d6990624_f40e3585_106aa070,
    0x19a4c116_1e376c08_2748774c_34b0bcb5_391c0cb3_4ed8aa4a_5b9cca4f_682e6ff3,
    0x748f82ee_78a5636f_84c87814_8cc70208_90befffa_a4506ceb_bef9a3f7_c67178f2]

/-- The round constant `K[t]`: word `t mod 8` of row `t div 8` of the table (R131). -/
def Config.roundConstant (t : Fin 64) : Word :=
  (Config.roundConstantRows[t.val / 8]'(by omega)).extractLsb' (32 * (7 - t.val % 8)) 32

/-- The round constants `K[0..63]`, in the index order of R131. A read-only table, not state (R12, R28). -/
def Config.K : Vector Word 64 := Vector.ofFn Config.roundConstant

/-- The initial hash values `IV[0..7]` of R132. A read-only table, not state (R12, R28). -/
def Config.IV : HashState :=
  #v[0x6a09e667, 0xbb67ae85, 0x3c6ef372, 0xa54ff53a, 0x510e527f, 0x9b05688c, 0x1f83d9ab, 0x5be0cd19]

/-! The free values of reset. R190 and R191: after a reset `H`, `R`, `W`, `BLK` and `LEN` hold any value. Each is an opaque
constant applied to the number of resets the machine has seen, so that no proof can see one and no two resets are assumed
to leave the same values (assumption 1). -/

/-- The free contents of `BLK` after the `n`-th reset (R191). -/
opaque Config.resetBlk (n : Nat) : Block

/-- The free contents of `LEN[63:3]` after the `n`-th reset (R191; `LEN[2:0]` is hardwired 0 even then). -/
opaque Config.resetLenHi (n : Nat) : BitVec 61

/-- The free contents of `W` after the `n`-th reset (R191). -/
opaque Config.resetW (n : Nat) : ScheduleWords

/-- The free contents of `R` after the `n`-th reset (R191). -/
opaque Config.resetR (n : Nat) : HashState

/-- The free contents of `H` after the `n`-th reset (R191). -/
opaque Config.resetH (n : Nat) : HashState

end Sys2Proof
end

