-- ==== Sys2Proof/Machine/State.lean ====
section
/-! DEFINITION. The architectural state (10_state.md R11), with the command port's pending inputs and response (R61), the
block trace (R27), and the ways a step can stop. -/

namespace Sys2Proof.Machine

/-- `MODE`, the life-cycle of the context (R22). The encodings 5 to 7 are unreachable and are excluded by type, as D30
asks. -/
inductive Mode
  /-- 0: after reset; no context. -/
  | idle
  /-- 1: a context exists and takes message bytes. -/
  | absorb
  /-- 2: the core is processing a block. -/
  | busy
  /-- 3: the digest of the finalised message is in `H`. -/
  | done
  /-- 4: InputTooLarge ended the context. -/
  | error
  deriving DecidableEq, Repr

/-- `PHASE`, which micro-operation is next (R16: "a model may make `PHASE` a five-constructor type"). -/
inductive Phase
  | idle | load | round | fold | pad2
  deriving DecidableEq, Repr

/-- `NEXT`, what follows the block now being processed (R23). -/
inductive Next
  /-- `N_NONE`: no block in progress. -/
  | none
  /-- `N_ABSORB`: a full message block; return to `ABSORB` after it. -/
  | absorb
  /-- `N_PAD2`: the first of two final blocks; build the second after it. -/
  | pad2
  /-- `N_DONE`: the last block of the padded message. -/
  | done
  deriving DecidableEq, Repr

/-- What the host, or the environment, does at the ports (R10, R61, R190). A list of these is the outside world's whole
behaviour, oldest first, so a claim about every state is a claim about every interleaving of host and core steps (D2,
U14). -/
inductive HostInput
  /-- The host drives `cmd_valid = 1` with this word until it is accepted; while it is held the core moves (R150). -/
  | command (w : CommandWord)
  /-- The host drives `cmd_valid = 1` with this word for one step only; if it is held the host withdraws it. -/
  | tryCommand (w : CommandWord)
  /-- The host drives `cmd_valid = 0` for one step; the core moves if it can. -/
  | pause
  /-- The environment asserts `rst` (R190). -/
  | reset
  deriving DecidableEq, Repr

/-- The three exceptions of R170. -/
inductive Exn
  /-- Code 1. -/
  | inputTooLarge
  /-- Code 2. -/
  | sequenceError
  /-- Code 3. -/
  | illegalCommand
  deriving DecidableEq, Repr

/-- The state of the machine (R11). `K` and `IV` are constants, not state (R12, R28). -/
structure State where
  /-- `BLK[0..63]`, the block buffer (R27). -/
  blk : Block
  /-- `LEN[63:3]`. `LEN[2:0]` is hardwired 0 (R24); `State.len` is the 64-bit register. -/
  lenHi : BitVec 61
  /-- `NEXT` (R23). -/
  next : Next
  /-- `W[0..63]`, the schedule file (R26). -/
  w : ScheduleWords
  /-- `R[0..7] = a..h`, the working registers (R14). -/
  r : HashState
  /-- `H[0..7]`, the HashState (R13). -/
  h : HashState
  /-- `t`, the round index (R17). -/
  t : BitVec 6
  /-- `PHASE` (R16). -/
  phase : Phase
  /-- `MODE` (R22). -/
  mode : Mode
  /-- `ERR_TOO_LARGE` (R20). -/
  errTooLarge : Bool
  /-- `ERR_SEQ` (R20). -/
  errSeq : Bool
  /-- `ERR_ILL` (R20). -/
  errIll : Bool
  /-- `BLKTRACE`, the Blocks handed to the scheduler unit since the last `INIT`, a record nothing reads (R27, D22). -/
  blkTrace : List Block
  /-- `rsp[7:0]`: the response of the command the last step issued, none where it issued none (R61, R64). -/
  rsp : Option Byte
  /-- The model's own field: what the host and the environment will do at the ports, oldest first. -/
  inputs : List HostInput
  /-- The model's own field: how many resets the machine has seen; it selects the free values of `Config` (R191). -/
  resetCount : Nat
  deriving DecidableEq, Repr

/-- Why the machine stops. Both constructors are the spec's "stuck" (U6); neither is reachable from reset. -/
inductive Fault
  /-- A micro-operation that is not enabled: `MODE ≠ BUSY`, or another sequencer word than its own (R65, R16). Raised by
  the four micro-operations. Safe: the model stops where the core makes no step. -/
  | notEnabled
  /-- `FOLD` with `NEXT = N_NONE`: "unreachable; no step" (R137). Raised by `FOLD`. Safe. -/
  | foldWithoutNext
  deriving DecidableEq, Repr

/-- Why the model gives a step no meaning. -/
inductive Refusal
  /-- An instruction with no meaning yet, by its mnemonic; raised in `exec`'s arms only. Safe. -/
  | notModelled (mnemonic : String)
  /-- A state that breaks the invariants (1) to (5) of R31: refused as a launch state (U6, D30). Raised by `step`. Safe:
  no run from reset reaches one. -/
  | illegalLaunchState
  deriving DecidableEq, Repr

/-- The reset state of R190, seen as the `n`-th reset of this machine, with the outside world's further behaviour: control
registers 0, datapath registers at free values, no response and an empty record. -/
def State.atReset (n : Nat) (inputs : List HostInput) : State where
  blk := Config.resetBlk n
  lenHi := Config.resetLenHi n
  next := .none
  w := Config.resetW n
  r := Config.resetR n
  h := Config.resetH n
  t := 0
  phase := .idle
  mode := .idle
  errTooLarge := false
  errSeq := false
  errIll := false
  blkTrace := []
  rsp := none
  inputs := inputs
  resetCount := n

/-- The machine right after its first reset, with nothing offered at its ports (R190, R191). -/
def State.reset : State := State.atReset 0 []

end Sys2Proof.Machine
end

