-- ==== Sys2Proof/Machine/Flags.lean ====
section
/-! DEFINITION. The core has no arithmetic flags (R19). What it has of flags: three sticky error bits (R20), two derived
bits (R21), and the status byte they are read in (R25, R63). -/

namespace Sys2Proof.Machine

/-- The value of `MODE[2:0]` (R22). -/
def Mode.code : Mode → BitVec 3
  | .idle => 0
  | .absorb => 1
  | .busy => 2
  | .done => 3
  | .error => 4

/-- The value of `PHASE[2:0]` (R16). -/
def Phase.code : Phase → BitVec 3
  | .idle => 0
  | .load => 1
  | .round => 2
  | .fold => 3
  | .pad2 => 4

/-- The value of `NEXT[1:0]` (R23). -/
def Next.code : Next → BitVec 2
  | .none => 0
  | .absorb => 1
  | .pad2 => 2
  | .done => 3

/-- The derived bit `BUSY` (R21). -/
def State.busyBit (s : State) : Bool := s.mode = .busy

/-- The derived bit `DIGEST_VALID` (R21). -/
def State.digestValidBit (s : State) : Bool := s.mode = .done

/-- `STATUS = {MODE[2:0], ERR_ILL, ERR_SEQ, ERR_TOO_LARGE, DIGEST_VALID, BUSY}` (R63). -/
def State.status (s : State) : Byte :=
  s.mode.code ++ BitVec.ofBool s.errIll ++ BitVec.ofBool s.errSeq ++ BitVec.ofBool s.errTooLarge ++
    BitVec.ofBool s.digestValidBit ++ BitVec.ofBool s.busyBit

/-- All three error flags cleared, as an accepted `INIT` does (R20, R152). -/
def State.clearErrors (s : State) : State := { s with errTooLarge := false, errSeq := false, errIll := false }

end Sys2Proof.Machine
end

