-- ==== Sys2Proof/Machine/Operands.lean ====
section
/-! DEFINITION. The operand forms and the views of the register files: the byte memory primitives over `BLK` (R7, R44), the
length register and the fill index (R24), the digest bytes (R49, R73), the sequencer word (R15). -/

namespace Sys2Proof.Machine

/-! ## Byte memory: `MemRead` and `MemWrite` over a block buffer (R7, R40) -/

/-- The value of a list of bytes, most significant byte first (R7, R40). -/
def beNat : List Byte → Nat
  | [] => 0
  | b :: bs => b.toNat * 256 ^ bs.length + beNat bs

/-- `MemRead(addr, n)`: the big-endian value of the `n` bytes `BLK[addr] .. BLK[addr+n-1]` (R7). -/
def memRead (blk : Block) (addr n : Nat) : BitVec (8 * n) :=
  BitVec.ofNat (8 * n) (beNat ((List.range n).map fun k => blk[addr + k]?.getD 0))

/-- `MemWrite(addr, n, v)`: the `n` bytes from `addr` on become `v`, most significant byte to `BLK[addr]` (R7). -/
def memWrite (blk : Block) (addr n : Nat) (v : BitVec (8 * n)) : Block :=
  Vector.ofFn fun j =>
    if addr ≤ j.val ∧ j.val < addr + n then v.extractLsb' (8 * (addr + n - 1 - j.val)) 8 else blk[j]

/-- Word `i` of a Block: `{BLK[4i], BLK[4i+1], BLK[4i+2], BLK[4i+3]} = MemRead(4i, 4)` (R70). -/
def blockWord (blk : Block) (i : Nat) : Word := memRead blk (4 * i) 4

/-! ## The length register (R24) -/

/-- `LEN[63:0]`, with `LEN[2:0]` hardwired 0 (R24). -/
def State.len (s : State) : BitVec 64 := s.lenHi ++ 0#3

/-- Write `LEN`: the bits written to `LEN[2:0]` are discarded (R24). -/
def State.setLen (s : State) (v : BitVec 64) : State := { s with lenHi := v.extractLsb' 3 61 }

/-- `fill = LEN[8:3]`: how many message bytes wait in the block buffer (R9, R24). -/
def State.fill (s : State) : BitVec 6 := s.len.extractLsb' 3 6

/-- `2^64 - 8`, the largest `LEN`: the next byte would make `L = 2^64` (R24, R101). -/
def maxLen : BitVec 64 := 0xFFFFFFFFFFFFFFF8

/-! ## Digest bytes (R49, R73) -/

/-- Digest byte `i`: `H[i div 4][31 - 8(i mod 4) : 24 - 8(i mod 4)]` (R49, R155). -/
def digestByte (h : HashState) (i : BitVec 5) : Byte :=
  (h[i.toNat / 4]'(by have := i.isLt; omega)).extractLsb' (24 - 8 * (i.toNat % 4)) 8

end Sys2Proof.Machine
end

