-- ==== Sys2Proof/Machine/Ops.lean ====
section
/-! DEFINITION. The operations every instruction shares: responding, raising an exception (the core's whole trap entry,
R179), the reset, the acceptance rule (R150), when a micro-operation is enabled (R65), and the control invariants that make
a state a legal launch state (R31, U6). -/

namespace Sys2Proof.Machine

/-- The outcome of an instruction or a step of this machine. -/
abbrev Result := Host.Outcome State Fault Refusal

/-! ## Responses and exceptions -/

/-- Drive `rsp` with the response of the command being issued (R61, R64). -/
def State.respond (s : State) (v : Byte) : State := { s with rsp := some v }

/-- Raise an exception: set its sticky flag, for InputTooLarge also `MODE <- ERROR`, respond 0x00, change nothing else
(R171, R172, R173, R174). There is no saved pc, vector or handler (R179), and nothing to return from (R180): the recovery
is `INIT`. -/
def State.raise (s : State) : Exn → State
  | .inputTooLarge => { s with errTooLarge := true, mode := .error, rsp := some 0 }
  | .sequenceError => { s with errSeq := true, rsp := some 0 }
  | .illegalCommand => { s with errIll := true, rsp := some 0 }

/-! ## Reset -/

/-- `rst` asserted, in any state (R190): the reset state, the datapath registers at free values of their own. The outside
world's further behaviour stands. -/
def State.assertReset (s : State) : State := State.atReset (s.resetCount + 1) s.inputs

/-! ## Acceptance (R150) -/

/-- Commands that are accepted while the core is busy: `op` is `NOP` or `RDSTAT` (R150 item 1). -/
def acceptedWhileBusy (w : CommandWord) : Bool := w.op == 0x0#4 || w.op == 0x5#4

/-- `cmd_ready`: 0 exactly when `MODE = BUSY` and `op` is not `NOP` or `RDSTAT` (R61). -/
def State.cmdReady (s : State) (w : CommandWord) : Bool := s.mode ≠ .busy || acceptedWhileBusy w

/-- The hold of R150 item 1: while `MODE = BUSY` a held command does nothing; otherwise it is accepted and takes its
effect. -/
def unlessHeld (s : State) (accepted : State) : Result :=
  if s.mode = .busy then .next s else .next accepted

/-- The mode check of R150 item 3, for a command that only one mode allows: in the others it raises SequenceError. -/
def State.inMode (s : State) (m : Mode) (effect : State) : State :=
  if s.mode = m then effect else s.raise .sequenceError

/-! ## The sequencer (R15 to R18, R65) -/

/-- The sequencer word `SEQ = {PHASE, t}` (R15). -/
def State.seq (s : State) : SeqWord := s.phase.code ++ s.t

/-- A micro-operation is enabled when `MODE = BUSY` and `SEQ` is the word that selects it (R65). -/
def State.enabled (s : State) (i : Instr) : Bool := s.mode = .busy && encode i == .sequencer s.seq

/-- A micro-operation's effect where it is enabled; where it is not, the core makes no step: stuck (R16, U6). -/
def State.ifEnabled (s : State) (i : Instr) (effect : Result) : Result :=
  if s.enabled i then effect else .fault .notEnabled

/-! ## Legal launch states (R31, U6) -/

/-- Items (2) to (5) of R31. Item (1) holds by the types `Mode` and `Phase`, and item (4), `LEN[2:0] = 0`, by the 61-bit
register behind `State.len`. A state without it is refused as a launch state (U6). DESIGN CHOICE, safe: R31 states item
(5) "between an `INIT` and the next"; the model asks it of every state, so also in `IDLE`, before any `INIT`, where no
run from reset has the flag set (assumption 4). -/
def State.Legal (s : State) : Bool :=
  ((s.mode = .busy) == (s.phase ≠ .idle)) && ((s.mode = .busy) == (s.next ≠ .none)) &&
    (s.phase = .round || s.t == 0) && ((s.mode = .error) == s.errTooLarge)

end Sys2Proof.Machine
end

