-- ==== Sys2Proof/Machine/Commands.lean ====
section
/-! DEFINITION. The host commands that are not padder operations (44_commands.md): `NOP` (R151), `INIT` (R152), `RDDIGEST`
(R155), `RDSTAT` (R156), the reserved opcodes (R157) and the illegal operand rows of `RDDIGEST` (R68 (b)). -/

namespace Sys2Proof.Machine

/-- `NOP`: accepted in every mode; changes no state, responds 0x00 (R151). -/
def execNop (_data : Byte) (s : State) : Result := .next (s.respond 0)

/-- A new context: `H <- IV`, `LEN <- 0`, the flags and the record cleared, `MODE <- ABSORB` (R152). -/
def State.initContext (s : State) : State :=
  { ({ s with h := Config.IV, blkTrace := [], mode := .absorb }.setLen 0).clearErrors with rsp := some 0 }

/-- `INIT`: allowed in every mode that accepts commands (R152). -/
def execInit (_data : Byte) (s : State) : Result := unlessHeld s s.initContext

/-- `RDDIGEST i` with a legal operand: the digest byte, in `MODE = DONE` only (R155). -/
def execRddigest (i : BitVec 5) (s : State) : Result :=
  unlessHeld s (s.inMode .done (s.respond (digestByte s.h i)))

/-- `RDSTAT`: accepted in every mode; responds with the status byte of the state before it, changes no state (R156,
R64). -/
def execRdstat (_data : Byte) (s : State) : Result := .next (s.respond s.status)

/-- A word that decodes to no command: IllegalCommand in every mode that accepts it, held in `BUSY` (R68, R157, R173). -/
def illegalCommand (s : State) : Result := unlessHeld s (s.raise .illegalCommand)

/-- Reserved opcode 0x6 (R157). -/
def execReserved6 (_data : Byte) (s : State) : Result := illegalCommand s

/-- Reserved opcode 0x7 (R157). -/
def execReserved7 (_data : Byte) (s : State) : Result := illegalCommand s

/-- Reserved opcode 0x8 (R157). -/
def execReserved8 (_data : Byte) (s : State) : Result := illegalCommand s

/-- Reserved opcode 0x9 (R157). -/
def execReserved9 (_data : Byte) (s : State) : Result := illegalCommand s

/-- Reserved opcode 0xA (R157). -/
def execReservedA (_data : Byte) (s : State) : Result := illegalCommand s

/-- Reserved opcode 0xB (R157). -/
def execReservedB (_data : Byte) (s : State) : Result := illegalCommand s

/-- Reserved opcode 0xC (R157). -/
def execReservedC (_data : Byte) (s : State) : Result := illegalCommand s

/-- Reserved opcode 0xD (R157). -/
def execReservedD (_data : Byte) (s : State) : Result := illegalCommand s

/-- Reserved opcode 0xE (R157). -/
def execReservedE (_data : Byte) (s : State) : Result := illegalCommand s

/-- Reserved opcode 0xF (R157). -/
def execReservedF (_data : Byte) (s : State) : Result := illegalCommand s

/-- `RDDIGEST` with `data[7] = 1` (R155, R68 (b)). -/
def execRddigestIllegal1xx (_data : Byte) (s : State) : Result := illegalCommand s

/-- `RDDIGEST` with `data[7:6] = 01` (R155, R68 (b)). -/
def execRddigestIllegal01x (_data : Byte) (s : State) : Result := illegalCommand s

/-- `RDDIGEST` with `data[7:5] = 001` (R155, R68 (b)). -/
def execRddigestIllegal001 (_data : Byte) (s : State) : Result := illegalCommand s

end Sys2Proof.Machine
end

