-- ==== Sys2Proof/Machine/Primitives.lean ====
section
/-! DEFINITION. The 32-bit primitives of 40_primitives.md: combinational functions on whole words, with no flag, exception
or state (R66, R80 to R91). -/

namespace Sys2Proof.Machine

/-- Addition modulo 2^32; the carry out of bit 31 is discarded (R80). -/
def add32 (x y : Word) : Word := x + y

/-- Rotate right, `(x >> n) | (x << (32 - n))`, the identity at 0 and 32. An amount above 32 has no meaning and is excluded
by type (R82, D24, U3). -/
def rotr (x : Word) (n : Fin 33) : Word :=
  if n.val = 0 ∨ n.val = 32 then x else (x >>> n.val) ||| (x <<< (32 - n.val))

/-- Logical shift right (R83). -/
def shr (x : Word) (n : Nat) : Word := x >>> n

/-- Choose: each bit of `f` where `e` is 1, of `g` where it is 0 (R84). -/
def ch (e f g : Word) : Word := (e &&& f) ^^^ (~~~e &&& g)

/-- Majority of three, bit by bit (R85). -/
def maj (a b c : Word) : Word := (a &&& b) ^^^ (a &&& c) ^^^ (b &&& c)

/-- `Σ0` (R86). -/
def bigSigma0 (a : Word) : Word := rotr a 2 ^^^ rotr a 13 ^^^ rotr a 22

/-- `Σ1` (R87). -/
def bigSigma1 (e : Word) : Word := rotr e 6 ^^^ rotr e 11 ^^^ rotr e 25

/-- `σ0`; its third term is a shift, not a rotate (R88). -/
def smallSigma0 (x : Word) : Word := rotr x 7 ^^^ rotr x 18 ^^^ shr x 3

/-- `σ1`; its third term is a shift, not a rotate (R89). -/
def smallSigma1 (x : Word) : Word := rotr x 17 ^^^ rotr x 19 ^^^ shr x 10

end Sys2Proof.Machine
end

