-- ==== Sys2Proof/Machine/Scheduler.lean ====
section
/-! DEFINITION. The scheduler unit (42_scheduler.md): the schedule step (R122, R124), the pure function `expand` (R120 to
R122), its 16-word refinement (R127), and the micro-operation `LOAD` (R123). -/

namespace Sys2Proof.Machine

/-- `W[t-16] + σ0(W[t-15]) + W[t-7] + σ1(W[t-2])` (R122), for `t ≥ 16`. -/
def scheduleWord (w : ScheduleWords) (t : Nat) (ht : t < 64) : Word :=
  add32 (add32 (add32 w[t - 16] (smallSigma0 w[t - 15])) w[t - 7]) (smallSigma1 w[t - 2])

/-- The schedule step of index `t`: writes `W[t]` if `t ≥ 16`, nothing if `t ≤ 15` (R124). -/
def scheduleStep (w : ScheduleWords) (t : Nat) (ht : t < 64) : ScheduleWords :=
  if 16 ≤ t then w.set t (scheduleWord w t ht) else w

/-- `W[0..15]` become the sixteen big-endian words of the Block; the others are kept (R121, R123). -/
def loadWords (blk : Block) (w : ScheduleWords) : ScheduleWords :=
  Vector.ofFn fun i => if i.val < 16 then blockWord blk i.val else w[i]

/-- The schedule file after the schedule steps of indices `0 .. n-1`, in increasing order (R122). -/
def scheduleUpTo (w : ScheduleWords) : Nat → ScheduleWords
  | 0 => w
  | n + 1 => if h : n < 64 then scheduleStep (scheduleUpTo w n) n h else scheduleUpTo w n

/-- `expand`: the 64 schedule words of a Block (R120 to R122). Irreducible so that no proof unrolls 64 steps by accident;
`unfold expand` opens it. -/
@[irreducible] def expand (blk : Block) : ScheduleWords := scheduleUpTo (loadWords blk (Vector.replicate 64 0)) 64

/-! ## The storage refinement of R127: the last sixteen words in a circular buffer indexed by `t mod 16` -/

/-- The first sixteen words of a Block, as the circular buffer holds them before round 0 (R127). -/
def ringLoad (blk : Block) : Vector Word 16 := Vector.ofFn fun i => blockWord blk i.val

/-- The schedule step on the circular buffer: for `t ≥ 16`, `W[t]` replaces `W[t-16]`, which is read for the last time in
that same step (R127). -/
def ringStep (ring : Vector Word 16) (t : Nat) : Vector Word 16 :=
  if 16 ≤ t then
    ring.set (t % 16)
      (add32 (add32 (add32 (ring[(t - 16) % 16]'(Nat.mod_lt _ (by decide)))
        (smallSigma0 (ring[(t - 15) % 16]'(Nat.mod_lt _ (by decide)))))
        (ring[(t - 7) % 16]'(Nat.mod_lt _ (by decide))))
        (smallSigma1 (ring[(t - 2) % 16]'(Nat.mod_lt _ (by decide)))))
      (Nat.mod_lt _ (by decide))
  else ring

/-- The circular buffer after the schedule steps of indices `0 .. n-1` (R127). -/
def ringUpTo (blk : Block) : Nat → Vector Word 16
  | 0 => ringLoad blk
  | n + 1 => ringStep (ringUpTo blk n) n

/-! ## `LOAD` -/

/-- `LOAD` (R123): the record grows by the Block, `W[0..15]` take its words, `R` takes `H`, and round 0 is next. -/
def execLoad (s : State) : Result :=
  s.ifEnabled .load (.next { s with
    blkTrace := s.blkTrace ++ [s.blk]
    w := loadWords s.blk s.w
    r := s.h
    t := 0
    phase := .round })

end Sys2Proof.Machine
end

