-- ==== Sys2Proof/Machine/Compressor.lean ====
section
/-! DEFINITION. The compressor unit (43_compressor.md): one round (R134), the fold (R136), the pure function `compress`
(R133), and the micro-operations `ROUND` (R135) and `FOLD` (R137). -/

namespace Sys2Proof.Machine

/-- `T1 = h + Σ1(e) + Ch(e,f,g) + K[t] + W[t]` (R134). -/
def roundT1 (r : HashState) (k w : Word) : Word :=
  add32 (add32 (add32 (add32 r[7] (bigSigma1 r[4])) (ch r[4] r[5] r[6])) k) w

/-- `T2 = Σ0(a) + Maj(a,b,c)` (R134). -/
def roundT2 (r : HashState) : Word := add32 (bigSigma0 r[0]) (maj r[0] r[1] r[2])

/-- One round on the working registers, with its round constant and schedule word; the eight writes are simultaneous
(R134). -/
def roundOnce (r : HashState) (k w : Word) : HashState :=
  #v[add32 (roundT1 r k w) (roundT2 r), r[0], r[1], r[2], add32 r[3] (roundT1 r k w), r[4], r[5], r[6]]

/-- The fold: `state[i] + {a..h}[i]`, element by element (R136). -/
def foldInto (state r : HashState) : HashState := Vector.ofFn fun i => add32 state[i] r[i]

/-- The working registers after rounds `0 .. n-1`, each with its own schedule word and round constant (R126, R133). -/
def roundsUpTo (schedule : ScheduleWords) (r : HashState) : Nat → HashState
  | 0 => r
  | n + 1 =>
    if h : n < 64 then roundOnce (roundsUpTo schedule r n) Config.K[n] schedule[n] else roundsUpTo schedule r n

/-- `compress`: 64 rounds from the state, then the fold (R133, R136). Irreducible so that no proof unrolls 64 rounds by
accident; `unfold compress` opens it. -/
@[irreducible] def compress (state : HashState) (schedule : ScheduleWords) : HashState :=
  foldInto state (roundsUpTo schedule state 64)

/-- `ROUND` of index `t` (R135): the schedule step, then the round with the new `W[t]`; `t` counts on, and the `ROUND` of
index 63 leads to `FOLD`. -/
def execRound (t : BitVec 6) (s : State) : Result :=
  s.ifEnabled (.round t)
    (let w := scheduleStep s.w t.toNat t.isLt
     .next { s with
       w := w
       r := roundOnce s.r (Config.K[t.toNat]'t.isLt) (w[t.toNat]'t.isLt)
       t := if t = 63 then 0 else t + 1
       phase := if t = 63 then .fold else .round })

/-- What follows a `FOLD`, by `NEXT` (R137); with `N_NONE` the core makes no step. -/
def State.afterFold (s : State) : Result :=
  match s.next with
  | .absorb => .next { s with phase := .idle, next := .none, mode := .absorb }
  | .done => .next { s with phase := .idle, next := .none, mode := .done }
  | .pad2 => .next { s with phase := .pad2 }
  | .none => .fault .foldWithoutNext

/-- `FOLD` (R137). -/
def execFold (s : State) : Result :=
  s.ifEnabled .fold { s with h := foldInto s.h s.r }.afterFold

end Sys2Proof.Machine
end

