-- ==== Sys2Proof/Machine/Padder.lean ====
section
/-! DEFINITION. The padder unit (41_padder.md): the pure function `pad` (R100, R102, R104, R105), and the commands `UPDATE`
(R101) and `FINAL` (R103) and the micro-operation `PAD2` (R107) by which the hardware performs it. -/

namespace Sys2Proof.Machine

/-! ## The function `pad` -/

/-- `L`, the bit length of a message, before any bound (R100). -/
def bitLength (m : List Byte) : Nat := 8 * m.length

/-- `P = 512 · ceil((L + 65) / 512)`, in unbounded integers (R102). -/
def paddedLength (l : Nat) : Nat := 512 * ((l + 65 + 511) / 512)

/-- Byte `i` of the padded message of `m` (R104, R71). -/
def paddedByte (m : List Byte) (i : Nat) : Byte :=
  if i < m.length then m[i]?.getD 0
  else if i = m.length then 0x80
  else if i < paddedLength (bitLength m) / 8 - 8 then 0x00
  else (BitVec.ofNat 64 (bitLength m)).extractLsb' (8 * (paddedLength (bitLength m) / 8 - 1 - i)) 8

/-- Block `q` of the padded message: bytes `64q .. 64q + 63` (R105). -/
def paddedBlock (m : List Byte) (q : Nat) : Block := Vector.ofFn fun j => paddedByte m (64 * q + j.val)

/-- `pad`: the Blocks of the padded message, or InputTooLarge where `L` has no 64-bit form (R100, R105). -/
def pad (m : List Byte) : Except Exn (List Block) :=
  if bitLength m < 2 ^ 64 then
    .ok ((List.range (paddedLength (bitLength m) / 512)).map (paddedBlock m))
  else .error .inputTooLarge

/-! ## `UPDATE` -/

/-- The byte is stored at the fill index and the length grows by 8 bits; the byte that fills `BLK[63]` starts block
processing (R101). -/
def State.absorbByte (s : State) (b : Byte) : State :=
  let stored := { s with blk := s.blk.set s.fill.toNat b s.fill.isLt }.setLen (s.len + 8)
  if s.fill = 63 then { stored with next := .absorb, phase := .load, mode := .busy } else stored

/-- `UPDATE b` in `MODE = ABSORB`: InputTooLarge for the byte that would make `L = 2^64`, else the byte is absorbed
(R101). -/
def State.updateByte (s : State) (b : Byte) : State :=
  if s.len = maxLen then s.raise .inputTooLarge else (s.absorbByte b).respond 0

/-- `UPDATE b` (R101). -/
def execUpdate (b : Byte) (s : State) : Result :=
  unlessHeld s (s.inMode .absorb (s.updateByte b))

/-! ## `FINAL` -/

/-- The block `FINAL` leaves when `fill` bytes wait: the bytes, 0x80, zeros (R103). -/
def padFrom (blk : Block) (fill : BitVec 6) : Block :=
  Vector.ofFn fun j => if j.val < fill.toNat then blk[j] else if j.val = fill.toNat then 0x80 else 0x00

/-- `MemWrite(56, 8, LEN)`: the length field (R72, R103, R107). -/
def writeLength (blk : Block) (len : BitVec 64) : Block := memWrite blk 56 8 len

/-- `FINAL` in `MODE = ABSORB`: pad, and start processing; the length field goes into this block if `fill ≤ 55`, else into
a second one (R103). -/
def State.finalise (s : State) : State :=
  let padded := padFrom s.blk s.fill
  if s.fill.toNat ≤ 55 then
    { s with blk := writeLength padded s.len, next := .done, phase := .load, mode := .busy }
  else { s with blk := padded, next := .pad2, phase := .load, mode := .busy }

/-- `FINAL` (R103); its operand byte is ignored (R68 (c)). -/
def execFinal (_data : Byte) (s : State) : Result :=
  unlessHeld s (s.inMode .absorb (s.finalise.respond 0))

/-! ## `PAD2` -/

/-- The second padding block: 56 zero bytes and the length field (R107). -/
def lengthBlock (len : BitVec 64) : Block := writeLength (Vector.replicate 64 0x00) len

/-- `PAD2` (R107). -/
def execPad2 (s : State) : Result :=
  s.ifEnabled .pad2 (.next { s with blk := lengthBlock s.len, next := .done, phase := .load })

end Sys2Proof.Machine
end

