-- ==== Sys2Proof/Machine/Dispatch.lean ====
section
/-! DEFINITION. One arm per instruction, each one call of its meaning. -/

namespace Sys2Proof.Machine

def exec (i : Instr) (s : State) : Host.Outcome State Fault Refusal :=
  match i with
  -- Host commands (R62).
  | .nop data => Sys2Proof.Machine.execNop data s
  | .init data => Sys2Proof.Machine.execInit data s
  | .update b => Sys2Proof.Machine.execUpdate b s
  | .final data => Sys2Proof.Machine.execFinal data s
  | .rddigest k => Sys2Proof.Machine.execRddigest k s
  | .rdstat data => Sys2Proof.Machine.execRdstat data s
  -- Reserved opcodes (R157).
  | .reserved6 data => Sys2Proof.Machine.execReserved6 data s
  | .reserved7 data => Sys2Proof.Machine.execReserved7 data s
  | .reserved8 data => Sys2Proof.Machine.execReserved8 data s
  | .reserved9 data => Sys2Proof.Machine.execReserved9 data s
  | .reservedA data => Sys2Proof.Machine.execReservedA data s
  | .reservedB data => Sys2Proof.Machine.execReservedB data s
  | .reservedC data => Sys2Proof.Machine.execReservedC data s
  | .reservedD data => Sys2Proof.Machine.execReservedD data s
  | .reservedE data => Sys2Proof.Machine.execReservedE data s
  | .reservedF data => Sys2Proof.Machine.execReservedF data s
  -- The illegal operands of RDDIGEST (R68 (b)).
  | .rddigestIllegal1xx data => Sys2Proof.Machine.execRddigestIllegal1xx data s
  | .rddigestIllegal01x data => Sys2Proof.Machine.execRddigestIllegal01x data s
  | .rddigestIllegal001 data => Sys2Proof.Machine.execRddigestIllegal001 data s
  -- The core's micro-operations (R65).
  | .load => Sys2Proof.Machine.execLoad s
  | .round t => Sys2Proof.Machine.execRound t s
  | .fold => Sys2Proof.Machine.execFold s
  | .pad2 => Sys2Proof.Machine.execPad2 s

end Sys2Proof.Machine
end

