-- ==== Sys2Proof/Machine/Turn.lean ====
section
/-! DEFINITION. Whose turn it is (R10, R51): the outside world's next input is read off `State.inputs`; where the host's
command is not ready, or there is none, the core makes the micro-operation its sequencer word selects. Also how a word is
placed where the next step reads it. -/

namespace Sys2Proof.Machine

/-- What the next step does. -/
inductive Turn
  /-- The environment asserts `rst` (R190). -/
  | reset
  /-- The command being issued, or the enabled micro-operation. -/
  | run (i : Instr)
  /-- No command is offered and the core has no micro-operation: nothing happens (R160, R187). -/
  | wait
  /-- The state is no legal launch state (U6, D30). -/
  | illegal
  deriving DecidableEq, Repr

/-- The core's own move: while `MODE = BUSY`, the micro-operation `SEQ` selects; otherwise none (R10, R65). -/
def State.coreTurn (s : State) : Turn :=
  if s.mode = .busy then
    match decode (.sequencer s.seq) with
    | .ok i => .run i
    | .error _ => .illegal
  else .wait

/-- The host's command if the core is ready for it, else the core's own move (R61, R150). -/
def State.commandTurn (s : State) (w : CommandWord) : Turn :=
  if s.cmdReady w then .run (decodeCommand w) else s.coreTurn

/-- Whose turn it is. `rst` may be asserted in any state (R190); everything else needs a legal one (U6). -/
def State.nextTurn (s : State) : Turn :=
  match s.inputs with
  | .reset :: _ => .reset
  | inputs =>
    if s.Legal then
      match inputs with
      | .command w :: _ => s.commandTurn w
      | .tryCommand w :: _ => s.commandTurn w
      | _ => s.coreTurn
    else .illegal

/-- The inputs left after the turn: a held `command` stays at the port, everything else is used up (R150, R194). -/
def State.inputsLeft (s : State) : List HostInput :=
  match s.inputs with
  | [] => []
  | .command w :: rest => if s.cmdReady w then rest else .command w :: rest
  | _ :: rest => rest

/-- The state a turn acts on: the input it uses is taken from the port, and `rsp` is driven by no command yet (R61). -/
def State.beginTurn (s : State) : State := { s with inputs := s.inputsLeft, rsp := none }

/-! ## Placing a word where the next step reads it -/

/-- The phase of a sequencer word, where it selects a micro-operation (R65). -/
def phaseOfCode (code : BitVec 3) : Phase :=
  match code with
  | 1#3 => .load
  | 2#3 => .round
  | 3#3 => .fold
  | 4#3 => .pad2
  | _ => .idle

/-- The `NEXT` a placed micro-operation needs for the state to be legal (R31 (2)): `N_PAD2` for `PAD2` (R107), a value that
is not `N_NONE` for the others. -/
def nextForPlaced (phase : Phase) (next : Next) : Next :=
  if phase = .pad2 then .pad2 else if next = .none then .absorb else next

/-- The state with a word placed so that the next step runs it. A command word is put at the port, before everything the
host will do later; in `BUSY` a command other than `NOP` and `RDSTAT` is held there (R150). A sequencer word is put into
`PHASE` and `t`, with the `MODE`, `NEXT` and flag that make the state legal (R31), and the port is quiet for one step. -/
def State.placeWord (s : State) : CoreWord → State
  | .command w => { s with inputs := .command w :: s.inputs }
  | .sequencer w =>
    { s with
      mode := .busy
      phase := phaseOfCode w.phase
      t := w.t
      next := nextForPlaced (phaseOfCode w.phase) s.next
      errTooLarge := false
      inputs := .pause :: s.inputs }

/-- The state with the word that `nbits` and `w` name in the opcode table's numbering placed, where it decodes; unchanged
where it does not. -/
def State.placeTableWord (s : State) (nbits w : Nat) : State :=
  match coreWordOfTable nbits w, decodeTableWord nbits w with
  | some word, some _ => s.placeWord word
  | _, _ => s

end Sys2Proof.Machine
end

