-- ==== Sys2Proof/Machine/Step.lean ====
section
/-! DEFINITION. One step of the machine: one host command, one micro-operation, a reset, or a wait, each atomic (R47,
R51). -/

namespace Sys2Proof.Machine

/-- One step: the turn's action, on the state whose input the turn has taken. -/
def step (s : State) : Host.Outcome State Fault Refusal :=
  match s.nextTurn with
  | .reset => .next s.beginTurn.assertReset
  | .run i => exec i s.beginTurn
  | .wait => .next s.beginTurn
  | .illegal => .refused .illegalLaunchState

/-- `s` with the instruction that `nbits` and `w` name in the opcode table's numbering stored where the next step reads it:
a command word at the command port, a sequencer word in the sequencer (assumption 6). -/
def State.withFetchWord (s : State) (nbits w : Nat) : State := s.placeTableWord nbits w

end Sys2Proof.Machine
end

