-- ==== Sys2Proof/Machine/Hash.lean ====
section
/-! DEFINITION. The function `hash` (R161), here `sha256`, over the three units' pure functions, the serialisation of the digest (R73), its
text (R75), and the pseudo-commands of R74 as the inputs a host sends. -/

namespace Sys2Proof.Machine

/-- The chained state after the given Blocks, from the initial hash value (R138). -/
def chain (blocks : List Block) : HashState := blocks.foldl (fun s b => compress s (expand b)) Config.IV

/-- The eight words of the state, big-endian, concatenated (R73). -/
def serialise (h : HashState) : Digest := Vector.ofFn fun i => digestByte h (BitVec.ofFin i)

/-- The document's `hash(m)`: fails only with InputTooLarge (R161). -/
def sha256 (m : List Byte) : Except Exn Digest :=
  match pad m with
  | .ok blocks => .ok (serialise (chain blocks))
  | .error e => .error e

/-! ## Digest text (R75) -/

/-- One lowercase hexadecimal digit (R75). -/
def hexDigit (v : BitVec 4) : Char := ("0123456789abcdef".toList)[v.toNat]?.getD '0'

/-- The 64 characters of the digest text: each byte's high nibble first, byte 0 first (R75). -/
def digestText (d : Digest) : List Char :=
  d.toList.flatMap fun b => [hexDigit (b.extractLsb' 4 4), hexDigit (b.extractLsb' 0 4)]

/-! ## Pseudo-commands (R74) -/

/-- The command word of an instruction, with operand 0x00 where the command has none (R74); a micro-operation has none. -/
def commandInput (i : Instr) : List HostInput :=
  match encode i with
  | .command w => [.command w]
  | .sequencer _ => []

/-- `UPDATES m`: one `UPDATE` per byte, in order (R74). -/
def updatesInputs (m : List Byte) : List HostInput := m.flatMap fun b => commandInput (.update b)

/-- `INIT`, `UPDATES m`, `FINAL`: the part of `HASH m` before its `WAIT`, which the handshake's hold stands for (R74). -/
def hashInputs (m : List Byte) : List HostInput :=
  commandInput (.init 0) ++ updatesInputs m ++ commandInput (.final 0)

/-- `RDDIGEST*`: `RDDIGEST 0` to `RDDIGEST 31` in order (R74). -/
def readDigestInputs : List HostInput :=
  (List.range 32).flatMap fun i => commandInput (.rddigest (BitVec.ofNat 5 i))

end Sys2Proof.Machine
end

