-- ==== Sys2Proof/Safety.lean ====
section
/-! DEFINITION. What claims are stated in: what a run shows to the outside (R30, R50), what counts as a clean run (R179),
and the invariants of R31 that tie the registers to the pure functions. -/

namespace Sys2Proof.Machine

/-- A run claim's premise or conclusion, "no error flag set" (R179). -/
def State.NoErrors (s : State) : Prop := s.errTooLarge = false ∧ s.errSeq = false ∧ s.errIll = false

/-- What the outside sees of a state: the response, the status byte (with it `MODE` and the flags), and the passive tap of
the padder-to-scheduler interface (R27, R197). -/
structure Observation where
  rsp : Option Byte
  status : Byte
  blkTrace : List Block
  deriving DecidableEq, Repr

/-- The observation of a state. -/
def State.observe (s : State) : Observation := ⟨s.rsp, s.status, s.blkTrace⟩

/-- Two states that can differ only in the registers reset leaves unspecified: `BLK`, `LEN`, `W`, `R`, `H` (R11, R191). -/
def SameButUnspecified (s₁ s₂ : State) : Prop :=
  s₂ = { s₁ with blk := s₂.blk, lenHi := s₂.lenHi, w := s₂.w, r := s₂.r, h := s₂.h }

/-- Host inputs that no rule lets change a computation: a pause, and `NOP` and `RDSTAT`, accepted in every mode (R162: "may
be interleaved anywhere without effect"). -/
def HostInput.transparent : HostInput → Bool
  | .pause => true
  | .command w => acceptedWhileBusy w
  | .tryCommand w => acceptedWhileBusy w
  | .reset => false

/-! ## The chaining invariant (R138; the `H` part of R31 (6) and (7)) -/

/-- Before round `n` of the Block in `BLK`: the Block is the record's last, `H` is the chained state of those before it,
`R` has gone through `n` rounds, and the schedule words up to 16 and up to `n` are those of the Block. -/
def State.InRounds (s : State) (n : Nat) : Prop :=
  ∃ before, s.blkTrace = before ++ [s.blk] ∧ s.h = chain before ∧
    s.r = roundsUpTo (expand s.blk) s.h n ∧
    ∀ i : Fin 64, i.val < 16 ∨ i.val < n → s.w[i] = (expand s.blk)[i]

/-- `H` is the chained state of the Blocks handed over since `INIT`, but for the one whose rounds are running. In `IDLE` and
`ERROR` there is no context and nothing is claimed. -/
def State.Chained (s : State) : Prop :=
  match s.mode, s.phase with
  | .absorb, _ => s.h = chain s.blkTrace
  | .done, _ => s.h = chain s.blkTrace
  | .busy, .load => s.h = chain s.blkTrace
  | .busy, .pad2 => s.h = chain s.blkTrace
  | .busy, .round => s.InRounds s.t.toNat
  | .busy, .fold => s.InRounds 64
  | .busy, .idle => False
  | .idle, _ => True
  | .error, _ => True

/-! ## The padding invariant (R109; the `BLKTRACE` part of R31 (6) and (7)) -/

/-- The Blocks are the padded form of a message whose bit length is `LEN`. -/
def State.IsPaddingOf (s : State) (blocks : List Block) : Prop :=
  ∃ m : List Byte, 8 * m.length = s.len.toNat ∧ pad m = .ok blocks

/-- The Blocks still to be handed over after the record, `pending`, complete the padding of a message of length `LEN`. -/
def State.CompletesPadding (s : State) (pending : List Block) : Prop := s.IsPaddingOf (s.blkTrace ++ pending)

/-- In `ABSORB` the record and the fill account for `LEN`; in `BUSY` the record, the block in progress and what `NEXT` still
asks for do; in `DONE` the record is the padded form of a message of length `LEN`. -/
def State.Padded (s : State) : Prop :=
  match s.mode, s.next, s.phase with
  | .absorb, _, _ => 512 * s.blkTrace.length + 8 * s.fill.toNat = s.len.toNat
  | .done, _, _ => s.CompletesPadding []
  | .busy, .absorb, .load => 512 * (s.blkTrace.length + 1) = s.len.toNat
  | .busy, .absorb, .round => 512 * s.blkTrace.length = s.len.toNat
  | .busy, .absorb, .fold => 512 * s.blkTrace.length = s.len.toNat
  | .busy, .pad2, .load => s.CompletesPadding [s.blk, lengthBlock s.len]
  | .busy, .pad2, .pad2 => s.CompletesPadding [lengthBlock s.len]
  | .busy, .pad2, .round => s.CompletesPadding [lengthBlock s.len]
  | .busy, .pad2, .fold => s.CompletesPadding [lengthBlock s.len]
  | .busy, .done, .load => s.CompletesPadding [s.blk]
  | .busy, .done, .round => s.CompletesPadding []
  | .busy, .done, .fold => s.CompletesPadding []
  | .busy, _, _ => False
  | .idle, _, _ => True
  | .error, _, _ => True

end Sys2Proof.Machine
end

