-- ==== Sys2Proof/Certificates/Slice0/Obligations.lean ====
section
/-! DEFINITION. The statements for the provers, each from the spec's numbered rules. A frame is written
`t = { s with f := t.f, … }`: the two states agree but for the named fields. -/

open Sys2Proof Sys2Proof.Machine

/-! ## Encoding -/

/-- R62, R65, R68: words written out from the tables decode to the instructions they stand for. -/
def Obligations.DecodesWordsOfTheTables : Prop :=
  decode (.command 0x000) = .ok (.nop 0x00) ∧
  decode (.command 0x1FF) = .ok (.init 0xFF) ∧
  decode (.command 0x261) = .ok (.update 0x61) ∧
  decode (.command 0x300) = .ok (.final 0x00) ∧
  decode (.command 0x41F) = .ok (.rddigest 31) ∧
  decode (.command 0x420) = .ok (.rddigestIllegal001 0x20) ∧
  decode (.command 0x47F) = .ok (.rddigestIllegal01x 0x7F) ∧
  decode (.command 0x480) = .ok (.rddigestIllegal1xx 0x80) ∧
  decode (.command 0x500) = .ok (.rdstat 0x00) ∧
  decode (.command 0x6AA) = .ok (.reserved6 0xAA) ∧
  decode (.command 0xF00) = .ok (.reservedF 0x00) ∧
  decode (.sequencer 0x040) = .ok .load ∧
  decode (.sequencer 0x080) = .ok (.round 0) ∧
  decode (.sequencer 0x0BF) = .ok (.round 63) ∧
  decode (.sequencer 0x0C0) = .ok .fold ∧
  decode (.sequencer 0x100) = .ok .pad2 ∧
  decode (.sequencer 0x000) = .error .coreIdle ∧
  decode (.sequencer 0x041) = .error .unreachableSequencer ∧
  decode (.sequencer 0x140) = .error .unreachableSequencer

/-- R61, R62, R65, R67: no bit of an encoding is dropped. -/
def Obligations.DecodeInvertsEncode : Prop :=
  ∀ i : Instr, i.WellFormed = true → decode (encode i) = .ok i

/-- R62, R65: a word that decodes is the encoding of the well-formed instruction it decodes to, so no two words share a
meaning. -/
def Obligations.EncodeInvertsDecode : Prop :=
  ∀ (w : CoreWord) (i : Instr), decode w = .ok i → encode i = w ∧ i.WellFormed = true

/-- R62: every 12-bit word matches exactly one row of the table, and decodes to that row's command. -/
def Obligations.CommandWordMatchesExactlyOneRow : Prop :=
  ∀ w : CommandWord,
    (opcodeRows.filter fun row => row.holds (.command w)) = [(decodeCommand w).row] ∧
    (decodeCommand w).isCommand = true

/-! ## Primitives -/

/-- R80: addition modulo 2^32, commutative and associative. -/
def Obligations.Add32WrapsModulo : Prop :=
  ∀ x y z : Word,
    (add32 x y).toNat = (x.toNat + y.toNat) % 2 ^ 32 ∧ add32 x y = add32 y x ∧
    add32 (add32 x y) z = add32 x (add32 y z)

/-- R82: result bit `i` of a rotation is bit `(i + n) mod 32`, and the rotation by 0 and by 32 is the identity. -/
def Obligations.RotateMovesEveryBit : Prop :=
  ∀ (x : Word) (n : Fin 33),
    (∀ i, i < 32 → (rotr x n).getLsbD i = x.getLsbD ((i + n.val) % 32)) ∧
    (n.val = 0 ∨ n.val = 32 → rotr x n = x)

/-- R83: result bit `i` of a shift is bit `i + n` where there is one, else 0. -/
def Obligations.ShiftDiscardsBits : Prop :=
  ∀ (x : Word) (n i : Nat), i < 32 → (shr x n).getLsbD i = if i + n ≤ 31 then x.getLsbD (i + n) else false

/-- R84, R85: choose is a multiplexer and majority is at least two of three, bit by bit. -/
def Obligations.ChooseAndMajorityBitwise : Prop :=
  ∀ (a b c : Word) (i : Nat), i < 32 →
    (ch a b c).getLsbD i = (if a.getLsbD i then b.getLsbD i else c.getLsbD i) ∧
    (maj a b c).getLsbD i = decide (2 ≤ [a.getLsbD i, b.getLsbD i, c.getLsbD i].count true)

/-- R91: the rotate, the shift and the four sigmas are linear over xor and map 0 to 0; choose and majority are not linear. -/
def Obligations.SigmasAreLinear : Prop :=
  (∀ (x y : Word) (n : Fin 33), rotr (x ^^^ y) n = rotr x n ^^^ rotr y n ∧ rotr 0 n = 0) ∧
  (∀ (x y : Word) (n : Nat), shr (x ^^^ y) n = shr x n ^^^ shr y n ∧ shr 0 n = 0) ∧
  (∀ f ∈ [bigSigma0, bigSigma1, smallSigma0, smallSigma1], ∀ x y : Word, f (x ^^^ y) = f x ^^^ f y ∧ f 0 = 0) ∧
  (¬ ∀ e f g e' f' g' : Word, ch (e ^^^ e') (f ^^^ f') (g ^^^ g') = ch e f g ^^^ ch e' f' g') ∧
  (¬ ∀ a b c a' b' c' : Word, maj (a ^^^ a') (b ^^^ b') (c ^^^ c') = maj a b c ^^^ maj a' b' c')

/-! ## Byte order -/

/-- R44, R70: all views of the block buffer are big-endian: a word is its four bytes, and the length field written at 56
is read back as words 14 and 15. -/
def Obligations.BlockViewsAreBigEndian : Prop :=
  (∀ (blk : Block) (i : Fin 16), blockWord blk i.val =
    blk[4 * i.val]'(by omega) ++ blk[4 * i.val + 1]'(by omega) ++ blk[4 * i.val + 2]'(by omega) ++
      blk[4 * i.val + 3]'(by omega)) ∧
  (∀ (blk : Block) (v : BitVec 64),
    (∀ k : Fin 8, (memWrite blk 56 8 v)[56 + k.val]'(by omega) = v.extractLsb' (56 - 8 * k.val) 8) ∧
    (∀ j : Fin 64, j.val < 56 → (memWrite blk 56 8 v)[j] = blk[j]) ∧
    blockWord (memWrite blk 56 8 v) 14 = v.extractLsb' 32 32 ∧
    blockWord (memWrite blk 56 8 v) 15 = v.extractLsb' 0 32)

/-- R73: digest byte `4i + j` is bits `31-8j : 24-8j` of `H[i]`. -/
def Obligations.DigestIsBigEndian : Prop :=
  ∀ (h : HashState) (i : Fin 8) (j : Fin 4),
    (serialise h)[4 * i.val + j.val]'(by omega) = h[i].extractLsb' (24 - 8 * j.val) 8

/-! ## The pure functions -/

/-- R102: `P` is the smallest multiple of 512 with `P ≥ L + 1 + 64`. -/
def Obligations.PaddedLengthIsSmallest : Prop :=
  ∀ l : Nat, paddedLength l % 512 = 0 ∧ l + 1 + 64 ≤ paddedLength l ∧
    ∀ p, p % 512 = 0 → l + 1 + 64 ≤ p → paddedLength l ≤ p

/-- R100: `pad` fails with InputTooLarge exactly for messages of `2^61` bytes or more. -/
def Obligations.PadFailsOnlyWhenTooLarge : Prop :=
  ∀ m : List Byte,
    (2 ^ 61 ≤ m.length → pad m = .error .inputTooLarge) ∧ (m.length < 2 ^ 61 → ∃ blocks, pad m = .ok blocks)

/-- R110: the padded length is a multiple of 512 bits, the message is a prefix, 0x80 follows, zeros follow up to the last
64 bits, and those decode to the bit length. -/
def Obligations.PaddingHasTheStatedLayout : Prop :=
  ∀ (m : List Byte) (blocks : List Block), pad m = .ok blocks →
    let bytes := blocks.flatMap Vector.toList
    8 * bytes.length = paddedLength (8 * m.length) ∧ 8 * bytes.length % 512 = 0 ∧
    bytes.take m.length = m ∧ bytes[m.length]? = some 0x80 ∧
    (∀ i, m.length < i → i < bytes.length - 8 → bytes[i]? = some 0x00) ∧
    beNat (bytes.drop (bytes.length - 8)) = 8 * m.length

/-- R106: `Q + 1` Blocks if at most 55 bytes are over, `Q + 2` otherwise; the first `Q` are pure message. -/
def Obligations.PadBlockCount : Prop :=
  ∀ (m : List Byte) (blocks : List Block), pad m = .ok blocks →
    blocks.length = m.length / 64 + (if m.length % 64 ≤ 55 then 1 else 2) ∧
    ∀ q : Nat, q < m.length / 64 → ∃ blk, blocks[q]? = some blk ∧ blk.toList = (m.drop (64 * q)).take 64

/-- R110: `pad` is injective. -/
def Obligations.PadIsInjective : Prop :=
  ∀ (m m' : List Byte) (blocks : List Block), pad m = .ok blocks → pad m' = .ok blocks → m = m'

/-- R121, R122: the first sixteen schedule words are the Block's, the others follow the recurrence. -/
def Obligations.ExpandFollowsTheRecurrence : Prop :=
  ∀ blk : Block,
    (∀ i : Fin 16, (expand blk)[i.val]'(by omega) =
      blk[4 * i.val]'(by omega) ++ blk[4 * i.val + 1]'(by omega) ++ blk[4 * i.val + 2]'(by omega) ++
        blk[4 * i.val + 3]'(by omega)) ∧
    (∀ (t : Nat) (_ : 16 ≤ t) (ht : t < 64), (expand blk)[t] =
      (expand blk)[t - 16] + smallSigma0 (expand blk)[t - 15] + (expand blk)[t - 7] + smallSigma1 (expand blk)[t - 2])

/-- R127: the 16-word circular buffer computes the same schedule words. -/
def Obligations.RingBufferComputesTheSchedule : Prop :=
  ∀ (blk : Block) (t : Nat) (ht : t < 64),
    (ringUpTo blk (t + 1))[t % 16]'(Nat.mod_lt _ (by decide)) = (expand blk)[t]

/-- R133, R134, R136: `compress` is 64 rounds of the stated form, each with its own constant and schedule word, and the
fold of the last into the state it was given. -/
def Obligations.CompressIsRoundsThenFold : Prop :=
  ∀ (state : HashState) (schedule : ScheduleWords), ∃ regs : Nat → HashState,
    regs 0 = state ∧
    (∀ (t : Nat) (ht : t < 64),
      let r := regs t
      let t1 := r[7] + bigSigma1 r[4] + ch r[4] r[5] r[6] + Config.K[t] + schedule[t]
      let t2 := bigSigma0 r[0] + maj r[0] r[1] r[2]
      regs (t + 1) = #v[t1 + t2, r[0], r[1], r[2], r[3] + t1, r[4], r[5], r[6]]) ∧
    ∀ i : Fin 8, (compress state schedule)[i] = state[i] + (regs 64)[i]

/-! ## Reset, turns and steps -/

/-- R190: `rst`, in any state, leaves the stated control state: `STATUS = 0x00`, ready for every command, no
micro-operation, an empty record. The datapath registers are unspecified there, and nothing is claimed of them. The
model's choices, no rules of the spec: the machine's own `State.reset` is the state after reset number 0 with an empty
list of inputs (log entries 1 and 2), a reset keeps the rest of the list of inputs (log entry 2), and `rsp` carries
nothing after it (log entry 3). -/
def Obligations.ResetLeavesTheControlState : Prop :=
  (∀ s rest, s.inputs = HostInput.reset :: rest → ∃ n, step s = .next (State.atReset n rest)) ∧
  State.reset = State.atReset 0 [] ∧
  ∀ (n : Nat) (rest : List HostInput),
    let t := State.atReset n rest
    t.mode = .idle ∧ t.phase = .idle ∧ t.t = 0 ∧ t.next = .none ∧
    t.errTooLarge = false ∧ t.errSeq = false ∧ t.errIll = false ∧ t.blkTrace = [] ∧
    t.status = 0x00 ∧ (∀ w, t.cmdReady w = true) ∧
    ∀ i t', i.isCommand = false → exec i t ≠ .next t'

/-- R31: the state after reset meets the invariants. That item (5) of R31 is asked in `IDLE` too, before any `INIT`, is
the model's choice: log entry 4. -/
def Obligations.ResetMeetsTheInvariants : Prop :=
  State.reset.Legal = true ∧ State.reset.Chained ∧ State.reset.Padded

/-- R61, R150: a command offered when the core is ready for it is issued: the step is `exec` of what it decodes to, with
the command taken from the port and no older response. The list of inputs and the cleared response are the model's
choices: log entries 2 and 3. -/
def Obligations.StepIssuesAReadyCommand : Prop :=
  ∀ (s : State) (w : CommandWord) (i : Instr) (rest : List HostInput),
    s.Legal = true → (s.inputs = .command w :: rest ∨ s.inputs = .tryCommand w :: rest) →
    s.cmdReady w = true → decode (.command w) = .ok i →
    step s = exec i { s with inputs := rest, rsp := none }

/-- R10, R65, R150: while the core is busy and no ready command is offered, the step is `exec` of the micro-operation
its sequencer word decodes to; a held command stays at the port, one offered for a single step is withdrawn. The list of
inputs and the cleared response are the model's choices: log entries 2 and 3. -/
def Obligations.StepRunsTheMicroOperation : Prop :=
  ∀ (s : State) (i : Instr), s.Legal = true → s.mode = .busy → decode (.sequencer s.seq) = .ok i →
    (s.inputs = [] → step s = exec i { s with rsp := none }) ∧
    (∀ rest, s.inputs = .pause :: rest → step s = exec i { s with inputs := rest, rsp := none }) ∧
    (∀ w rest, s.inputs = .command w :: rest → s.cmdReady w = false → step s = exec i { s with rsp := none }) ∧
    (∀ w rest, s.inputs = .tryCommand w :: rest → s.cmdReady w = false →
      step s = exec i { s with inputs := rest, rsp := none })

/-- R160, R187: where the core is not busy and nothing is offered, a step changes no register. The model's choices, no
rules of the spec: a quiet port is an empty list of inputs or a pause at its head, which the step uses up (log entry 2),
and `rsp` carries nothing after such a step (log entry 3). -/
def Obligations.WaitingChangesNothing : Prop :=
  ∀ s : State, s.Legal = true → s.mode ≠ .busy →
    (s.inputs = [] → step s = .next { s with rsp := none }) ∧
    (∀ rest, s.inputs = .pause :: rest → step s = .next { s with inputs := rest, rsp := none })

/-- R10: in a legal state exactly one micro-operation is enabled while the core is busy, none while it is not. That the
meaning of a micro-operation that is not enabled answers the fault `notEnabled` is the model's reading of the spec's "no
step": log entry 5. -/
def Obligations.ExactlyOneMicroOperationWhileBusy : Prop :=
  ∀ s : State, s.Legal = true →
    (s.mode = .busy → ∃ i t, i.isCommand = false ∧ exec i s = .next t ∧
      ∀ i' t', i'.isCommand = false → exec i' s = .next t' → i' = i) ∧
    (s.mode ≠ .busy → ∀ i, i.isCommand = false → exec i s = .fault .notEnabled)

/-- R31, R16, R22: a step from a legal state is never stuck: it answers a next state. A state that breaks the invariants
is refused as a launch state, unless `rst` is asserted in it: the model's choice among the treatments of U6, log entry
4. That item (5) of R31 is asked in `IDLE` too, before any `INIT`, is the model's choice: log entry 4. -/
def Obligations.LegalStatesAlwaysStep : Prop :=
  ∀ s : State,
    (s.Legal = true → ∃ t, step s = .next t) ∧
    (s.Legal = false → (∀ rest, s.inputs ≠ .reset :: rest) → step s = .refused .illegalLaunchState)

/-! ## Commands -/

/-- R151: `NOP`, in every mode. -/
def Obligations.NopRespondsZero : Prop :=
  ∀ (data : Byte) (s : State),
    decode (.command (0x0#4 ++ data)) = .ok (.nop data) ∧ s.cmdReady (0x0#4 ++ data) = true ∧
    exec (.nop data) s = .next { s with rsp := some 0x00 }

/-- R156, R63: `RDSTAT`, in every mode, responds with the status byte, field by field, and changes no state. -/
def Obligations.RdstatRespondsStatus : Prop :=
  ∀ (data : Byte) (s : State),
    decode (.command (0x5#4 ++ data)) = .ok (.rdstat data) ∧ s.cmdReady (0x5#4 ++ data) = true ∧
    ∃ v : Byte, exec (.rdstat data) s = .next { s with rsp := some v } ∧
      v.extractLsb' 5 3 = (match s.mode with | .idle => 0 | .absorb => 1 | .busy => 2 | .done => 3 | .error => 4) ∧
      v.getLsbD 4 = s.errIll ∧ v.getLsbD 3 = s.errSeq ∧ v.getLsbD 2 = s.errTooLarge ∧
      (v.getLsbD 1 = true ↔ s.mode = .done) ∧ (v.getLsbD 0 = true ↔ s.mode = .busy)

/-- R152: `INIT` starts a context in every mode but `BUSY`, where it is held; two in a row equal one. That its meaning
answers the unchanged state where it is held is the model's reading of the hold: log entry 5. -/
def Obligations.InitStartsAContext : Prop :=
  ∀ (data : Byte) (s : State),
    decode (.command (0x1#4 ++ data)) = .ok (.init data) ∧
    (s.mode ≠ .busy → ∃ t, exec (.init data) s = .next t ∧
      t = { s with h := Config.IV, lenHi := t.lenHi, errTooLarge := false, errSeq := false, errIll := false,
                   blkTrace := [], mode := .absorb, rsp := some 0x00 } ∧
      t.len = 0 ∧ exec (.init data) t = .next t) ∧
    (s.mode = .busy → exec (.init data) s = .next s)

/-- R101: `UPDATE` in `MODE = ABSORB` below the largest length stores its byte at the fill index and counts it, and starts
block processing when it fills the block. -/
def Obligations.UpdateAbsorbsTheByte : Prop :=
  ∀ (b : Byte) (s : State), s.mode = .absorb → s.len ≠ 0xFFFFFFFFFFFFFFF8 →
    ∃ t, exec (.update b) s = .next t ∧
      (∀ j : Fin 64, t.blk[j] = if j.val = s.len.toNat / 8 % 64 then b else s.blk[j]) ∧
      t.len.toNat = s.len.toNat + 8 ∧ t.rsp = some 0x00 ∧
      (s.len.toNat / 8 % 64 = 63 → t.next = .absorb ∧ t.phase = .load ∧ t.mode = .busy) ∧
      (s.len.toNat / 8 % 64 ≠ 63 → t.next = s.next ∧ t.phase = s.phase ∧ t.mode = .absorb)

/-- R101, R171: the `UPDATE` that would make `L = 2^64` raises InputTooLarge: flag and mode change, nothing else. -/
def Obligations.UpdateRaisesInputTooLarge : Prop :=
  ∀ (b : Byte) (s : State), s.mode = .absorb → s.len = 0xFFFFFFFFFFFFFFF8 →
    exec (.update b) s = .next { s with errTooLarge := true, mode := .error, rsp := some 0x00 }

/-- R103: `FINAL` in `MODE = ABSORB`: the block is the waiting bytes, 0x80, zeros, and, if at most 55 bytes wait, the length
field; `NEXT` says whether a second block follows. -/
def Obligations.FinalPadsTheBlock : Prop :=
  ∀ (data : Byte) (s : State), s.mode = .absorb →
    ∃ t, exec (.final data) s = .next t ∧
      (∀ j : Fin 64, t.blk[j] =
        if j.val < s.len.toNat / 8 % 64 then s.blk[j]
        else if j.val = s.len.toNat / 8 % 64 then 0x80
        else if s.len.toNat / 8 % 64 ≤ 55 ∧ 56 ≤ j.val then s.len.extractLsb' (8 * (63 - j.val)) 8
        else 0x00) ∧
      t.next = (if s.len.toNat / 8 % 64 ≤ 55 then .done else .pad2) ∧
      t.phase = .load ∧ t.mode = .busy ∧ t.len = s.len ∧ t.rsp = some 0x00

/-- R155: `RDDIGEST` with index `4j + k` in `MODE = DONE` responds with byte `k`, most significant first, of `H[j]`, and
changes no state. -/
def Obligations.RddigestReadsTheByte : Prop :=
  ∀ (s : State) (j : Fin 8) (k : Fin 4), s.mode = .done →
    exec (.rddigest (BitVec.ofNat 5 (4 * j.val + k.val))) s =
      .next { s with rsp := some (s.h[j].extractLsb' (24 - 8 * k.val) 8) }

/-- R172: an `UPDATE`, `FINAL` or `RDDIGEST` accepted in a mode that does not allow it raises SequenceError: the flag is
set, the response is 0x00, nothing else changes, whatever `LEN` is (R177). -/
def Obligations.WrongModeRaisesSequenceError : Prop :=
  ∀ s : State,
    (∀ b, s.mode = .idle ∨ s.mode = .done ∨ s.mode = .error →
      exec (.update b) s = .next { s with errSeq := true, rsp := some 0x00 }) ∧
    (∀ data, s.mode = .idle ∨ s.mode = .done ∨ s.mode = .error →
      exec (.final data) s = .next { s with errSeq := true, rsp := some 0x00 }) ∧
    (∀ i, s.mode = .idle ∨ s.mode = .absorb ∨ s.mode = .error →
      exec (.rddigest i) s = .next { s with errSeq := true, rsp := some 0x00 })

/-- R157, R173, R150, R61: the ten reserved opcodes and the three illegal operand rows of `RDDIGEST` raise
IllegalCommand in every mode but `BUSY`: the flag is set, the response is 0x00, nothing else changes. In `BUSY` they are
held, `cmd_ready = 0`; that the meaning of a held command answers the unchanged state is the model's reading of the
hold: log entry 5. The second part says the same of the command words. -/
def Obligations.IllegalWordsRaiseIllegalCommand : Prop :=
  (∀ (data : Byte) (s : State) (i : Instr),
    i ∈ [.reserved6 data, .reserved7 data, .reserved8 data, .reserved9 data, .reservedA data, .reservedB data,
         .reservedC data, .reservedD data, .reservedE data, .reservedF data,
         .rddigestIllegal1xx data, .rddigestIllegal01x data, .rddigestIllegal001 data] →
    s.mode ≠ .busy → exec i s = .next { s with errIll := true, rsp := some 0x00 }) ∧
  ∀ (w : CommandWord) (s : State),
    6 ≤ (w.extractLsb' 8 4).toNat ∨ (w.extractLsb' 8 4 = 0x4#4 ∧ w.extractLsb' 5 3 ≠ 0) →
    (s.mode ≠ .busy → s.cmdReady w = true ∧
      exec (decodeCommand w) s = .next { s with errIll := true, rsp := some 0x00 }) ∧
    (s.mode = .busy → s.cmdReady w = false ∧ exec (decodeCommand w) s = .next s)

/-- R177: one exception per command, the first found: in every mode but `BUSY`, where no such command is accepted, an
illegal operand of `RDDIGEST` is IllegalCommand, also where the mode would raise SequenceError. -/
def Obligations.IllegalCommandComesFirst : Prop :=
  ∀ (data : Byte) (s : State), s.mode ≠ .busy →
    (data.extractLsb' 5 3 ≠ 0 →
      exec (decodeCommand (0x4#4 ++ data)) s = .next { s with errIll := true, rsp := some 0x00 }) ∧
    (data.extractLsb' 5 3 = 0 → s.mode ≠ .done →
      exec (decodeCommand (0x4#4 ++ data)) s = .next { s with errSeq := true, rsp := some 0x00 })

/-- R150, R61: while the core is busy every command but `NOP` and `RDSTAT` is held, `cmd_ready = 0`, and does nothing;
otherwise the core is ready for every command. That the meaning of a held command answers the unchanged state is the
model's reading of the hold: log entry 5. -/
def Obligations.BusyHoldsCommands : Prop :=
  ∀ (s : State) (w : CommandWord),
    (s.cmdReady w = false ↔ s.mode = .busy ∧ w.extractLsb' 8 4 ≠ 0x0#4 ∧ w.extractLsb' 8 4 ≠ 0x5#4) ∧
    (s.cmdReady w = false → exec (decodeCommand w) s = .next s)

/-! ## Micro-operations -/

/-- R123: `LOAD` records the Block, takes its sixteen words and the hash state, and leads to round 0. -/
def Obligations.LoadTakesTheBlock : Prop :=
  ∀ s : State, s.mode = .busy → s.phase = .load → s.t = 0 →
    ∃ t, exec .load s = .next t ∧
      t = { s with blkTrace := s.blkTrace ++ [s.blk], w := t.w, r := s.h, t := 0, phase := .round } ∧
      (∀ i : Fin 16, t.w[i.val]'(by omega) =
        s.blk[4 * i.val]'(by omega) ++ s.blk[4 * i.val + 1]'(by omega) ++ s.blk[4 * i.val + 2]'(by omega) ++
          s.blk[4 * i.val + 3]'(by omega)) ∧
      ∀ i : Fin 64, 16 ≤ i.val → t.w[i] = s.w[i]

/-- R124, R135: `ROUND` of index `u` makes the schedule word if `u ≥ 16`, then one round with it and `K[u]`, and counts on
to `FOLD`. -/
def Obligations.RoundComputesOneRound : Prop :=
  ∀ (s : State) (u : BitVec 6), s.mode = .busy → s.phase = .round → s.t = u →
    ∃ t, exec (.round u) s = .next t ∧
      t = { s with w := t.w, r := t.r, t := t.t, phase := t.phase } ∧
      (∀ j : Fin 64, j.val ≠ u.toNat ∨ u.toNat < 16 → t.w[j] = s.w[j]) ∧
      (∀ (n : Nat) (_ : 16 ≤ n) (hn : n < 64), n = u.toNat →
        t.w[n] = s.w[n - 16] + smallSigma0 s.w[n - 15] + s.w[n - 7] + smallSigma1 s.w[n - 2]) ∧
      (let w := t.w[u.toNat]'u.isLt
       let t1 := s.r[7] + bigSigma1 s.r[4] + ch s.r[4] s.r[5] s.r[6] + Config.K[u.toNat]'u.isLt + w
       let t2 := bigSigma0 s.r[0] + maj s.r[0] s.r[1] s.r[2]
       t.r = #v[t1 + t2, s.r[0], s.r[1], s.r[2], s.r[3] + t1, s.r[4], s.r[5], s.r[6]]) ∧
      (u = 63 → t.t = 0 ∧ t.phase = .fold) ∧
      (u ≠ 63 → t.t.toNat = u.toNat + 1 ∧ t.phase = .round)

/-- R136, R137: `FOLD` adds the working registers into the hash state and moves on by `NEXT`; with `N_NONE` there is no
step. -/
def Obligations.FoldAddsAndMovesOn : Prop :=
  ∀ s : State, s.mode = .busy → s.phase = .fold → s.t = 0 →
    (s.next ≠ .none → ∃ t, exec .fold s = .next t ∧
      t = { s with h := t.h, phase := t.phase, next := t.next, mode := t.mode } ∧
      (∀ i : Fin 8, t.h[i] = s.h[i] + s.r[i]) ∧
      (s.next = .absorb → t.phase = .idle ∧ t.next = .none ∧ t.mode = .absorb) ∧
      (s.next = .done → t.phase = .idle ∧ t.next = .none ∧ t.mode = .done) ∧
      (s.next = .pad2 → t.phase = .pad2 ∧ t.next = .pad2 ∧ t.mode = .busy)) ∧
    (s.next = .none → ∀ t, exec .fold s ≠ .next t)

/-- R107: `PAD2` builds the second padding block: 56 zero bytes and the length field. -/
def Obligations.Pad2BuildsTheLengthBlock : Prop :=
  ∀ s : State, s.mode = .busy → s.phase = .pad2 → s.t = 0 →
    ∃ t, exec .pad2 s = .next t ∧
      t = { s with blk := t.blk, next := .done, phase := .load } ∧
      ∀ j : Fin 64, t.blk[j] = if j.val < 56 then 0x00 else s.len.extractLsb' (8 * (63 - j.val)) 8

/-! ## Frames -/

/-- R101, R103, R152: what `UPDATE`, `FINAL` and `INIT` leave unchanged when they answer a next state. `UPDATE` stores at
`s.fill` only, and only where it is accepted, in `ABSORB` below the largest length; `FINAL` keeps the bytes below
`s.fill`, and all of them outside `ABSORB`. -/
def Obligations.FrameOfContextCommands : Prop :=
  (∀ b s t, exec (.update b) s = .next t →
    t = { s with blk := t.blk, lenHi := t.lenHi, next := t.next, phase := t.phase, mode := t.mode,
                 errTooLarge := t.errTooLarge, errSeq := t.errSeq, rsp := t.rsp } ∧
    (∀ j : Fin 64, j.val ≠ s.fill.toNat → t.blk[j] = s.blk[j]) ∧
    (s.mode ≠ .absorb ∨ s.len = maxLen →
      t = { s with mode := t.mode, errTooLarge := t.errTooLarge, errSeq := t.errSeq, rsp := t.rsp })) ∧
  (∀ data s t, exec (.final data) s = .next t →
    t = { s with blk := t.blk, next := t.next, phase := t.phase, mode := t.mode, errSeq := t.errSeq, rsp := t.rsp } ∧
    (∀ j : Fin 64, j.val < s.fill.toNat → t.blk[j] = s.blk[j]) ∧
    (s.mode ≠ .absorb → t = { s with errSeq := t.errSeq, rsp := t.rsp })) ∧
  (∀ data s t, exec (.init data) s = .next t →
    t = { s with h := t.h, lenHi := t.lenHi, errTooLarge := t.errTooLarge, errSeq := t.errSeq, errIll := t.errIll,
                 blkTrace := t.blkTrace, mode := t.mode, rsp := t.rsp })

/-- R48, R172, R173: what every other command leaves unchanged when it answers a next state: everything but the response
and the flag of its exception. -/
def Obligations.FrameOfOtherCommands : Prop :=
  ∀ i s t, exec i s = .next t →
    (∀ data, i = .nop data ∨ i = .rdstat data → t = { s with rsp := t.rsp }) ∧
    (∀ k, i = .rddigest k → t = { s with rsp := t.rsp, errSeq := t.errSeq }) ∧
    (∀ data, i ∈ [.reserved6 data, .reserved7 data, .reserved8 data, .reserved9 data, .reservedA data,
                  .reservedB data, .reservedC data, .reservedD data, .reservedE data, .reservedF data,
                  .rddigestIllegal1xx data, .rddigestIllegal01x data, .rddigestIllegal001 data] →
      t = { s with rsp := t.rsp, errIll := t.errIll })

/-- R107, R123, R135, R137: what each micro-operation leaves unchanged when it answers a next state. -/
def Obligations.FrameOfMicroOperations : Prop :=
  (∀ s t, exec .load s = .next t →
    t = { s with blkTrace := t.blkTrace, w := t.w, r := t.r, t := t.t, phase := t.phase } ∧
    ∀ i : Fin 64, 16 ≤ i.val → t.w[i] = s.w[i]) ∧
  (∀ u s t, exec (.round u) s = .next t →
    t = { s with w := t.w, r := t.r, t := t.t, phase := t.phase } ∧
    (∀ i : Fin 64, i.val ≠ u.toNat → t.w[i] = s.w[i]) ∧ (u.toNat < 16 → t.w = s.w)) ∧
  (∀ s t, exec .fold s = .next t →
    t = { s with h := t.h, phase := t.phase, next := t.next, mode := t.mode }) ∧
  (∀ s t, exec .pad2 s = .next t → t = { s with blk := t.blk, next := t.next, phase := t.phase })

/-! ## Rules about the whole machine -/

/-- R13, R14, R24, R26, R27, R137: `H`, `R`, `W`, `BLK`, `LEN` and the record are each written only by the instructions
the rules name, and only `FOLD` leaves `BUSY`. -/
def Obligations.RegistersChangeOnlyByTheirOwners : Prop :=
  ∀ i s t, exec i s = .next t →
    (t.h ≠ s.h → i = .fold ∨ ∃ data, i = .init data) ∧
    (t.r ≠ s.r → i = .load ∨ ∃ u, i = .round u) ∧
    (t.w ≠ s.w → i = .load ∨ ∃ u, i = .round u ∧ 16 ≤ u.toNat) ∧
    (t.blk ≠ s.blk → i = .pad2 ∨ (∃ b, i = .update b) ∨ ∃ data, i = .final data) ∧
    (t.lenHi ≠ s.lenHi → (∃ b, i = .update b) ∨ ∃ data, i = .init data) ∧
    (t.blkTrace ≠ s.blkTrace → i = .load ∨ ∃ data, i = .init data) ∧
    (s.mode = .busy → t.mode ≠ .busy → i = .fold)

/-- R18, from R101, R103, R107, R123, R135 and R137: how each instruction advances the sequencer in a legal state. A
host command issued in `BUSY`, where the table has no row (R150, R151, R156), or one that does not lead to `BUSY`,
leaves the sequencer as it is; that the meaning of a held command answers the unchanged state is log entry 5. -/
def Obligations.SequencerAdvancesAsTabulated : Prop :=
  ∀ i s t, s.Legal = true → exec i s = .next t →
    (i.isCommand = true → s.mode ≠ .busy → t.mode = .busy →
      (t.phase, t.t) = (.load, 0) ∧
        ((∃ data, i = .final data) ∨ ∃ b, i = .update b ∧ s.len.toNat / 8 % 64 = 63)) ∧
    (s.mode = .absorb →
      (∃ data, i = .final data) ∨
        (∃ b, i = .update b ∧ s.len.toNat / 8 % 64 = 63 ∧ s.len ≠ 0xFFFFFFFFFFFFFFF8) →
      (t.phase, t.t) = (.load, 0)) ∧
    (i.isCommand = true → (s.mode = .busy ∨ t.mode ≠ .busy) → (t.phase, t.t) = (s.phase, s.t)) ∧
    (i = .load → (s.phase, s.t) = (.load, 0) ∧ (t.phase, t.t) = (.round, 0)) ∧
    (∀ u, i = .round u → (s.phase, s.t) = (.round, u) ∧
      (t.phase, t.t) = if u = 63 then (.fold, 0) else (.round, u + 1)) ∧
    (i = .fold → (s.phase, s.t) = (.fold, 0) ∧
      (t.phase, t.t) = if s.next = .pad2 then (.pad2, 0) else (.idle, 0)) ∧
    (i = .pad2 → (s.phase, s.t) = (.pad2, 0) ∧ (t.phase, t.t) = (.load, 0))

/-- R20: an error flag is set only by the instruction that raises its exception, and no step clears one but an accepted
`INIT` and a reset. -/
def Obligations.ErrorFlagsAreSticky : Prop :=
  (∀ i s t, exec i s = .next t →
    (s.errTooLarge = false → t.errTooLarge = true → (∃ b, i = .update b) ∧ s.mode = .absorb ∧ s.len = maxLen) ∧
    (s.errSeq = false → t.errSeq = true →
      (∃ b, i = .update b) ∨ (∃ data, i = .final data) ∨ ∃ k, i = .rddigest k) ∧
    (s.errIll = false → t.errIll = true → ∃ data,
      i ∈ [.reserved6 data, .reserved7 data, .reserved8 data, .reserved9 data, .reservedA data, .reservedB data,
           .reservedC data, .reservedD data, .reservedE data, .reservedF data,
           .rddigestIllegal1xx data, .rddigestIllegal01x data, .rddigestIllegal001 data])) ∧
  (∀ s t, step s = .next t →
    (s.errTooLarge = true ∧ t.errTooLarge = false) ∨ (s.errSeq = true ∧ t.errSeq = false) ∨
      (s.errIll = true ∧ t.errIll = false) →
    (∃ rest, s.inputs = .reset :: rest) ∨
      ∃ w rest, (s.inputs = .command w :: rest ∨ s.inputs = .tryCommand w :: rest) ∧ w.extractLsb' 8 4 = 0x1#4 ∧
        s.mode ≠ .busy)

/-- R50, R64, R139: a command's response depends on the mode and the flags, and, in `DONE` only, on `H`; on `R`, `W`, `BLK`,
`LEN` and the sequencer it never depends. -/
def Obligations.ResponsesDoNotLeak : Prop :=
  ∀ i s₁ s₂ t₁ t₂, i.isCommand = true →
    s₁.mode = s₂.mode → s₁.errTooLarge = s₂.errTooLarge → s₁.errSeq = s₂.errSeq → s₁.errIll = s₂.errIll →
    s₁.rsp = s₂.rsp → (s₁.mode = .done → s₁.h = s₂.h) →
    exec i s₁ = .next t₁ → exec i s₂ = .next t₂ → t₁.rsp = t₂.rsp

/-- R155, R64: a byte of `H` is returned in `DONE` only: a command that responds with anything but 0x00 is `RDSTAT`, or
`RDDIGEST` in `DONE`. -/
def Obligations.NoPartialDigest : Prop :=
  ∀ i s t v, exec i s = .next t → s.rsp = none → t.rsp = some v → v ≠ 0x00 →
    (∃ data, i = .rdstat data) ∨ (s.mode = .done ∧ ∃ k, i = .rddigest k)

/-- R31 (1) to (5): every step keeps the control invariants. That item (5) of R31 is asked in `IDLE` too, before any
`INIT`, is the model's choice: log entry 4. -/
def Obligations.StepKeepsLegal : Prop :=
  ∀ s t : State, s.Legal = true → step s = .next t → t.Legal = true

/-- R31 (6) and (7), R138, R140: every step keeps `H` the chained state of the recorded Blocks, with `R` and `W` those of
the rounds of the Block in progress. -/
def Obligations.StepKeepsChained : Prop :=
  ∀ s t : State, s.Legal = true → s.Chained → step s = .next t → t.Chained

/-- R31 (6) and (7), R109: every step keeps the record, the block in progress and `LEN` accounting for one message's
padding. -/
def Obligations.StepKeepsPadded : Prop :=
  ∀ s t : State, s.Legal = true → s.Padded → step s = .next t → t.Padded

/-- R140: from `PHASE = P_LOAD` with `H = S` and `BLK = B`, the 66 steps `LOAD`, 64 `ROUND`s, `FOLD` leave `H =
compress(S, expand(B))` and `W = expand(B)`, and record `B`. The empty list of inputs is the model's form of a quiet
port: log entry 2. -/
def Obligations.OneBlockIsCompress : Prop :=
  ∀ s : State, s.Legal = true → s.phase = .load → s.inputs = [] →
    ∃ t, core.run 66 s = .next t ∧
      t.h = compress s.h (expand s.blk) ∧ t.w = expand s.blk ∧ t.blkTrace = s.blkTrace ++ [s.blk] ∧
      t.blk = s.blk ∧ t.len = s.len ∧
      (s.next = .absorb → t.mode = .absorb) ∧ (s.next = .done → t.mode = .done) ∧
      (s.next = .pad2 → t.mode = .busy ∧ t.phase = .pad2)

/-- R150, R205: while the core is left to itself, `BUSY` ends within 133 steps; started by `UPDATE` it lasts 66, started
by `FINAL` 66 or 133. The empty list of inputs is the model's form of a quiet port: log entry 2. -/
def Obligations.BusyEndsWithin133Steps : Prop :=
  (∀ s : State, s.Legal = true → s.inputs = [] → ∃ k t, k ≤ 133 ∧ core.run k s = .next t ∧ t.mode ≠ .busy) ∧
  (∀ (b : Byte) (s u : State), s.Legal = true → s.inputs = [] → s.mode = .absorb → exec (.update b) s = .next u →
    u.mode = .busy →
    (∀ k t, k < 66 → core.run k u = .next t → t.mode = .busy) ∧
    ∃ t, core.run 66 u = .next t ∧ t.mode = .absorb) ∧
  (∀ (data : Byte) (s u : State), s.Legal = true → s.inputs = [] → s.mode = .absorb →
    exec (.final data) s = .next u →
    (∀ k t, k < (if s.len.toNat / 8 % 64 ≤ 55 then 66 else 133) → core.run k u = .next t → t.mode = .busy) ∧
    ∃ t, core.run (if s.len.toNat / 8 % 64 ≤ 55 then 66 else 133) u = .next t ∧ t.mode = .done)

/-- R109, R162, R164: from any legal state that is not busy, whatever an earlier message or reset left in the registers,
and with pauses, `NOP`s and `RDSTAT`s interleaved anywhere, `INIT`, the `UPDATE`s of a message and `FINAL` reach `DONE`
with no error flag, the record is the message's padding, and `RDDIGEST i` then responds with byte `i` of its hash. The
list of inputs is the model's form of the host: log entry 2. -/
def Obligations.MachineHashesEveryMessage : Prop :=
  ∀ (m : List Byte) (s : State), m.length < 2 ^ 61 → s.Legal = true → s.mode ≠ .busy →
    (s.inputs.filter fun x => !x.transparent) = hashInputs m →
    ∃ k t d, core.run k s = .next t ∧ t.inputs = [] ∧ t.mode = .done ∧ t.NoErrors ∧
      pad m = .ok t.blkTrace ∧ sha256 m = .ok d ∧
      ∀ i : Fin 32, exec (.rddigest (BitVec.ofNat 5 i.val)) t = .next { t with rsp := some d[i] }

/-- R100, R162, R171: a message of `2^61` bytes or more ends in `ERROR`, as `hash` fails: no digest is readable. The
list of inputs is the model's form of the host: log entry 2. -/
def Obligations.OversizeMessageEndsInError : Prop :=
  ∀ (m : List Byte) (s : State), 2 ^ 61 ≤ m.length → s.Legal = true → s.mode ≠ .busy →
    (s.inputs.filter fun x => !x.transparent) = hashInputs m →
    sha256 m = .error .inputTooLarge ∧
    ∃ k t, core.run k s = .next t ∧ t.inputs = [] ∧ t.mode = .error ∧ t.errTooLarge = true ∧
      ∀ i, exec (.rddigest i) t = .next { t with errSeq := true, rsp := some 0x00 }

/-- R191, R197: two legal states in `IDLE` that differ only in `BLK`, `LEN`, `W`, `R` and `H`, the registers reset
leaves unspecified, show the same response, status byte and recorded Blocks after every number of steps, whatever the
host and the environment do. The list of inputs is the model's form of the host: log entry 2. -/
def Obligations.UnspecifiedValuesAreNeverSeen : Prop :=
  ∀ (s₁ s₂ t₁ : State) (k : Nat), s₁.Legal = true → s₁.mode = .idle → SameButUnspecified s₁ s₂ →
    core.run k s₁ = .next t₁ → ∃ t₂, core.run k s₂ = .next t₂ ∧ t₂.observe = t₁.observe
end

