-- ==== Sys2Proof/Laws/Bits.lean ====
section
/-! SUPPORT. Concatenation of bit vectors: its value, and that it loses nothing. -/

namespace Sys2Proof

/-- The value of a concatenation. -/
theorem append_toNat {a b : Nat} (p : BitVec a) (t : BitVec b) :
    (p ++ t : BitVec (a + b)).toNat = p.toNat * 2 ^ b + t.toNat := by
  rw [BitVec.toNat_append, ← Nat.shiftLeft_add_eq_or_of_lt t.isLt, Nat.shiftLeft_eq]

/-- A concatenation determines its parts. -/
theorem append_inj {a b : Nat} {p q : BitVec a} {t u : BitVec b} :
    (p ++ t : BitVec (a + b)) = q ++ u ↔ p = q ∧ t = u := by
  refine ⟨fun h => ?_, fun ⟨hp, ht⟩ => by rw [hp, ht]⟩
  have hv := congrArg BitVec.toNat h
  rw [append_toNat, append_toNat] at hv
  have hdiv := congrArg (· / 2 ^ b) hv
  have hmod := congrArg (· % 2 ^ b) hv
  simp only [Nat.mul_add_mod_self_right, Nat.mod_eq_of_lt t.isLt, Nat.mod_eq_of_lt u.isLt] at hmod
  have hpos : 0 < 2 ^ b := Nat.two_pow_pos b
  rw [hmod] at hv
  exact ⟨BitVec.eq_of_toNat_eq (Nat.eq_of_mul_eq_mul_right hpos (Nat.add_right_cancel hv)),
    BitVec.eq_of_toNat_eq hmod⟩

end Sys2Proof
end

