-- ==== Sys2Proof/Laws/State.lean ====
section
/-! SUPPORT. One lemma per field per update of `State`, so that no later proof unfolds a record update; the lemmas of the
length register; and what makes a state legal, as propositions. -/

namespace Sys2Proof.Machine

/-! ## `State.setLen` -/

@[simp] theorem State.setLen_blk (s : State) (v : BitVec 64) : (s.setLen v).blk = s.blk := rfl
@[simp] theorem State.setLen_lenHi (s : State) (v : BitVec 64) : (s.setLen v).lenHi = v.extractLsb' 3 61 := rfl
@[simp] theorem State.setLen_next (s : State) (v : BitVec 64) : (s.setLen v).next = s.next := rfl
@[simp] theorem State.setLen_w (s : State) (v : BitVec 64) : (s.setLen v).w = s.w := rfl
@[simp] theorem State.setLen_r (s : State) (v : BitVec 64) : (s.setLen v).r = s.r := rfl
@[simp] theorem State.setLen_h (s : State) (v : BitVec 64) : (s.setLen v).h = s.h := rfl
@[simp] theorem State.setLen_t (s : State) (v : BitVec 64) : (s.setLen v).t = s.t := rfl
@[simp] theorem State.setLen_phase (s : State) (v : BitVec 64) : (s.setLen v).phase = s.phase := rfl
@[simp] theorem State.setLen_mode (s : State) (v : BitVec 64) : (s.setLen v).mode = s.mode := rfl
@[simp] theorem State.setLen_errTooLarge (s : State) (v : BitVec 64) : (s.setLen v).errTooLarge = s.errTooLarge := rfl
@[simp] theorem State.setLen_errSeq (s : State) (v : BitVec 64) : (s.setLen v).errSeq = s.errSeq := rfl
@[simp] theorem State.setLen_errIll (s : State) (v : BitVec 64) : (s.setLen v).errIll = s.errIll := rfl
@[simp] theorem State.setLen_blkTrace (s : State) (v : BitVec 64) : (s.setLen v).blkTrace = s.blkTrace := rfl
@[simp] theorem State.setLen_rsp (s : State) (v : BitVec 64) : (s.setLen v).rsp = s.rsp := rfl
@[simp] theorem State.setLen_inputs (s : State) (v : BitVec 64) : (s.setLen v).inputs = s.inputs := rfl
@[simp] theorem State.setLen_resetCount (s : State) (v : BitVec 64) : (s.setLen v).resetCount = s.resetCount := rfl

/-! ## `State.respond` -/

@[simp] theorem State.respond_blk (s : State) (v : Byte) : (s.respond v).blk = s.blk := rfl
@[simp] theorem State.respond_lenHi (s : State) (v : Byte) : (s.respond v).lenHi = s.lenHi := rfl
@[simp] theorem State.respond_next (s : State) (v : Byte) : (s.respond v).next = s.next := rfl
@[simp] theorem State.respond_w (s : State) (v : Byte) : (s.respond v).w = s.w := rfl
@[simp] theorem State.respond_r (s : State) (v : Byte) : (s.respond v).r = s.r := rfl
@[simp] theorem State.respond_h (s : State) (v : Byte) : (s.respond v).h = s.h := rfl
@[simp] theorem State.respond_t (s : State) (v : Byte) : (s.respond v).t = s.t := rfl
@[simp] theorem State.respond_phase (s : State) (v : Byte) : (s.respond v).phase = s.phase := rfl
@[simp] theorem State.respond_mode (s : State) (v : Byte) : (s.respond v).mode = s.mode := rfl
@[simp] theorem State.respond_errTooLarge (s : State) (v : Byte) : (s.respond v).errTooLarge = s.errTooLarge := rfl
@[simp] theorem State.respond_errSeq (s : State) (v : Byte) : (s.respond v).errSeq = s.errSeq := rfl
@[simp] theorem State.respond_errIll (s : State) (v : Byte) : (s.respond v).errIll = s.errIll := rfl
@[simp] theorem State.respond_blkTrace (s : State) (v : Byte) : (s.respond v).blkTrace = s.blkTrace := rfl
@[simp] theorem State.respond_rsp (s : State) (v : Byte) : (s.respond v).rsp = some v := rfl
@[simp] theorem State.respond_inputs (s : State) (v : Byte) : (s.respond v).inputs = s.inputs := rfl
@[simp] theorem State.respond_resetCount (s : State) (v : Byte) : (s.respond v).resetCount = s.resetCount := rfl

/-! ## `State.clearErrors` -/

@[simp] theorem State.clearErrors_blk (s : State) : (s.clearErrors).blk = s.blk := rfl
@[simp] theorem State.clearErrors_lenHi (s : State) : (s.clearErrors).lenHi = s.lenHi := rfl
@[simp] theorem State.clearErrors_next (s : State) : (s.clearErrors).next = s.next := rfl
@[simp] theorem State.clearErrors_w (s : State) : (s.clearErrors).w = s.w := rfl
@[simp] theorem State.clearErrors_r (s : State) : (s.clearErrors).r = s.r := rfl
@[simp] theorem State.clearErrors_h (s : State) : (s.clearErrors).h = s.h := rfl
@[simp] theorem State.clearErrors_t (s : State) : (s.clearErrors).t = s.t := rfl
@[simp] theorem State.clearErrors_phase (s : State) : (s.clearErrors).phase = s.phase := rfl
@[simp] theorem State.clearErrors_mode (s : State) : (s.clearErrors).mode = s.mode := rfl
@[simp] theorem State.clearErrors_errTooLarge (s : State) : (s.clearErrors).errTooLarge = false := rfl
@[simp] theorem State.clearErrors_errSeq (s : State) : (s.clearErrors).errSeq = false := rfl
@[simp] theorem State.clearErrors_errIll (s : State) : (s.clearErrors).errIll = false := rfl
@[simp] theorem State.clearErrors_blkTrace (s : State) : (s.clearErrors).blkTrace = s.blkTrace := rfl
@[simp] theorem State.clearErrors_rsp (s : State) : (s.clearErrors).rsp = s.rsp := rfl
@[simp] theorem State.clearErrors_inputs (s : State) : (s.clearErrors).inputs = s.inputs := rfl
@[simp] theorem State.clearErrors_resetCount (s : State) : (s.clearErrors).resetCount = s.resetCount := rfl

/-! ## `State.beginTurn` -/

@[simp] theorem State.beginTurn_blk (s : State) : (s.beginTurn).blk = s.blk := rfl
@[simp] theorem State.beginTurn_lenHi (s : State) : (s.beginTurn).lenHi = s.lenHi := rfl
@[simp] theorem State.beginTurn_next (s : State) : (s.beginTurn).next = s.next := rfl
@[simp] theorem State.beginTurn_w (s : State) : (s.beginTurn).w = s.w := rfl
@[simp] theorem State.beginTurn_r (s : State) : (s.beginTurn).r = s.r := rfl
@[simp] theorem State.beginTurn_h (s : State) : (s.beginTurn).h = s.h := rfl
@[simp] theorem State.beginTurn_t (s : State) : (s.beginTurn).t = s.t := rfl
@[simp] theorem State.beginTurn_phase (s : State) : (s.beginTurn).phase = s.phase := rfl
@[simp] theorem State.beginTurn_mode (s : State) : (s.beginTurn).mode = s.mode := rfl
@[simp] theorem State.beginTurn_errTooLarge (s : State) : (s.beginTurn).errTooLarge = s.errTooLarge := rfl
@[simp] theorem State.beginTurn_errSeq (s : State) : (s.beginTurn).errSeq = s.errSeq := rfl
@[simp] theorem State.beginTurn_errIll (s : State) : (s.beginTurn).errIll = s.errIll := rfl
@[simp] theorem State.beginTurn_blkTrace (s : State) : (s.beginTurn).blkTrace = s.blkTrace := rfl
@[simp] theorem State.beginTurn_rsp (s : State) : (s.beginTurn).rsp = none := rfl
@[simp] theorem State.beginTurn_inputs (s : State) : (s.beginTurn).inputs = s.inputsLeft := rfl
@[simp] theorem State.beginTurn_resetCount (s : State) : (s.beginTurn).resetCount = s.resetCount := rfl

/-! ## `State.atReset` -/

@[simp] theorem State.atReset_blk (n : Nat) (inputs : List HostInput) : (State.atReset n inputs).blk = Config.resetBlk n := rfl
@[simp] theorem State.atReset_lenHi (n : Nat) (inputs : List HostInput) : (State.atReset n inputs).lenHi = Config.resetLenHi n := rfl
@[simp] theorem State.atReset_next (n : Nat) (inputs : List HostInput) : (State.atReset n inputs).next = .none := rfl
@[simp] theorem State.atReset_w (n : Nat) (inputs : List HostInput) : (State.atReset n inputs).w = Config.resetW n := rfl
@[simp] theorem State.atReset_r (n : Nat) (inputs : List HostInput) : (State.atReset n inputs).r = Config.resetR n := rfl
@[simp] theorem State.atReset_h (n : Nat) (inputs : List HostInput) : (State.atReset n inputs).h = Config.resetH n := rfl
@[simp] theorem State.atReset_t (n : Nat) (inputs : List HostInput) : (State.atReset n inputs).t = 0 := rfl
@[simp] theorem State.atReset_phase (n : Nat) (inputs : List HostInput) : (State.atReset n inputs).phase = .idle := rfl
@[simp] theorem State.atReset_mode (n : Nat) (inputs : List HostInput) : (State.atReset n inputs).mode = .idle := rfl
@[simp] theorem State.atReset_errTooLarge (n : Nat) (inputs : List HostInput) : (State.atReset n inputs).errTooLarge = false := rfl
@[simp] theorem State.atReset_errSeq (n : Nat) (inputs : List HostInput) : (State.atReset n inputs).errSeq = false := rfl
@[simp] theorem State.atReset_errIll (n : Nat) (inputs : List HostInput) : (State.atReset n inputs).errIll = false := rfl
@[simp] theorem State.atReset_blkTrace (n : Nat) (inputs : List HostInput) : (State.atReset n inputs).blkTrace = [] := rfl
@[simp] theorem State.atReset_rsp (n : Nat) (inputs : List HostInput) : (State.atReset n inputs).rsp = none := rfl
@[simp] theorem State.atReset_inputs (n : Nat) (inputs : List HostInput) : (State.atReset n inputs).inputs = inputs := rfl
@[simp] theorem State.atReset_resetCount (n : Nat) (inputs : List HostInput) : (State.atReset n inputs).resetCount = n := rfl

/-! ## `State.initContext` -/

@[simp] theorem State.initContext_blk (s : State) : (s.initContext).blk = s.blk := rfl
@[simp] theorem State.initContext_lenHi (s : State) : (s.initContext).lenHi = 0 := rfl
@[simp] theorem State.initContext_next (s : State) : (s.initContext).next = s.next := rfl
@[simp] theorem State.initContext_w (s : State) : (s.initContext).w = s.w := rfl
@[simp] theorem State.initContext_r (s : State) : (s.initContext).r = s.r := rfl
@[simp] theorem State.initContext_h (s : State) : (s.initContext).h = Config.IV := rfl
@[simp] theorem State.initContext_t (s : State) : (s.initContext).t = s.t := rfl
@[simp] theorem State.initContext_phase (s : State) : (s.initContext).phase = s.phase := rfl
@[simp] theorem State.initContext_mode (s : State) : (s.initContext).mode = .absorb := rfl
@[simp] theorem State.initContext_errTooLarge (s : State) : (s.initContext).errTooLarge = false := rfl
@[simp] theorem State.initContext_errSeq (s : State) : (s.initContext).errSeq = false := rfl
@[simp] theorem State.initContext_errIll (s : State) : (s.initContext).errIll = false := rfl
@[simp] theorem State.initContext_blkTrace (s : State) : (s.initContext).blkTrace = [] := rfl
@[simp] theorem State.initContext_rsp (s : State) : (s.initContext).rsp = some 0 := rfl
@[simp] theorem State.initContext_inputs (s : State) : (s.initContext).inputs = s.inputs := rfl
@[simp] theorem State.initContext_resetCount (s : State) : (s.initContext).resetCount = s.resetCount := rfl

/-! ## `State.raise`, for each exception -/

@[simp] theorem State.raise_inputTooLarge_blk (s : State) : (s.raise .inputTooLarge).blk = s.blk := rfl
@[simp] theorem State.raise_inputTooLarge_lenHi (s : State) : (s.raise .inputTooLarge).lenHi = s.lenHi := rfl
@[simp] theorem State.raise_inputTooLarge_next (s : State) : (s.raise .inputTooLarge).next = s.next := rfl
@[simp] theorem State.raise_inputTooLarge_w (s : State) : (s.raise .inputTooLarge).w = s.w := rfl
@[simp] theorem State.raise_inputTooLarge_r (s : State) : (s.raise .inputTooLarge).r = s.r := rfl
@[simp] theorem State.raise_inputTooLarge_h (s : State) : (s.raise .inputTooLarge).h = s.h := rfl
@[simp] theorem State.raise_inputTooLarge_t (s : State) : (s.raise .inputTooLarge).t = s.t := rfl
@[simp] theorem State.raise_inputTooLarge_phase (s : State) : (s.raise .inputTooLarge).phase = s.phase := rfl
@[simp] theorem State.raise_inputTooLarge_mode (s : State) : (s.raise .inputTooLarge).mode = .error := rfl
@[simp] theorem State.raise_inputTooLarge_errTooLarge (s : State) : (s.raise .inputTooLarge).errTooLarge = true := rfl
@[simp] theorem State.raise_inputTooLarge_errSeq (s : State) : (s.raise .inputTooLarge).errSeq = s.errSeq := rfl
@[simp] theorem State.raise_inputTooLarge_errIll (s : State) : (s.raise .inputTooLarge).errIll = s.errIll := rfl
@[simp] theorem State.raise_inputTooLarge_blkTrace (s : State) : (s.raise .inputTooLarge).blkTrace = s.blkTrace := rfl
@[simp] theorem State.raise_inputTooLarge_rsp (s : State) : (s.raise .inputTooLarge).rsp = some 0 := rfl
@[simp] theorem State.raise_inputTooLarge_inputs (s : State) : (s.raise .inputTooLarge).inputs = s.inputs := rfl
@[simp] theorem State.raise_inputTooLarge_resetCount (s : State) : (s.raise .inputTooLarge).resetCount = s.resetCount := rfl

@[simp] theorem State.raise_sequenceError_blk (s : State) : (s.raise .sequenceError).blk = s.blk := rfl
@[simp] theorem State.raise_sequenceError_lenHi (s : State) : (s.raise .sequenceError).lenHi = s.lenHi := rfl
@[simp] theorem State.raise_sequenceError_next (s : State) : (s.raise .sequenceError).next = s.next := rfl
@[simp] theorem State.raise_sequenceError_w (s : State) : (s.raise .sequenceError).w = s.w := rfl
@[simp] theorem State.raise_sequenceError_r (s : State) : (s.raise .sequenceError).r = s.r := rfl
@[simp] theorem State.raise_sequenceError_h (s : State) : (s.raise .sequenceError).h = s.h := rfl
@[simp] theorem State.raise_sequenceError_t (s : State) : (s.raise .sequenceError).t = s.t := rfl
@[simp] theorem State.raise_sequenceError_phase (s : State) : (s.raise .sequenceError).phase = s.phase := rfl
@[simp] theorem State.raise_sequenceError_mode (s : State) : (s.raise .sequenceError).mode = s.mode := rfl
@[simp] theorem State.raise_sequenceError_errTooLarge (s : State) : (s.raise .sequenceError).errTooLarge = s.errTooLarge := rfl
@[simp] theorem State.raise_sequenceError_errSeq (s : State) : (s.raise .sequenceError).errSeq = true := rfl
@[simp] theorem State.raise_sequenceError_errIll (s : State) : (s.raise .sequenceError).errIll = s.errIll := rfl
@[simp] theorem State.raise_sequenceError_blkTrace (s : State) : (s.raise .sequenceError).blkTrace = s.blkTrace := rfl
@[simp] theorem State.raise_sequenceError_rsp (s : State) : (s.raise .sequenceError).rsp = some 0 := rfl
@[simp] theorem State.raise_sequenceError_inputs (s : State) : (s.raise .sequenceError).inputs = s.inputs := rfl
@[simp] theorem State.raise_sequenceError_resetCount (s : State) : (s.raise .sequenceError).resetCount = s.resetCount := rfl

@[simp] theorem State.raise_illegalCommand_blk (s : State) : (s.raise .illegalCommand).blk = s.blk := rfl
@[simp] theorem State.raise_illegalCommand_lenHi (s : State) : (s.raise .illegalCommand).lenHi = s.lenHi := rfl
@[simp] theorem State.raise_illegalCommand_next (s : State) : (s.raise .illegalCommand).next = s.next := rfl
@[simp] theorem State.raise_illegalCommand_w (s : State) : (s.raise .illegalCommand).w = s.w := rfl
@[simp] theorem State.raise_illegalCommand_r (s : State) : (s.raise .illegalCommand).r = s.r := rfl
@[simp] theorem State.raise_illegalCommand_h (s : State) : (s.raise .illegalCommand).h = s.h := rfl
@[simp] theorem State.raise_illegalCommand_t (s : State) : (s.raise .illegalCommand).t = s.t := rfl
@[simp] theorem State.raise_illegalCommand_phase (s : State) : (s.raise .illegalCommand).phase = s.phase := rfl
@[simp] theorem State.raise_illegalCommand_mode (s : State) : (s.raise .illegalCommand).mode = s.mode := rfl
@[simp] theorem State.raise_illegalCommand_errTooLarge (s : State) : (s.raise .illegalCommand).errTooLarge = s.errTooLarge := rfl
@[simp] theorem State.raise_illegalCommand_errSeq (s : State) : (s.raise .illegalCommand).errSeq = s.errSeq := rfl
@[simp] theorem State.raise_illegalCommand_errIll (s : State) : (s.raise .illegalCommand).errIll = true := rfl
@[simp] theorem State.raise_illegalCommand_blkTrace (s : State) : (s.raise .illegalCommand).blkTrace = s.blkTrace := rfl
@[simp] theorem State.raise_illegalCommand_rsp (s : State) : (s.raise .illegalCommand).rsp = some 0 := rfl
@[simp] theorem State.raise_illegalCommand_inputs (s : State) : (s.raise .illegalCommand).inputs = s.inputs := rfl
@[simp] theorem State.raise_illegalCommand_resetCount (s : State) : (s.raise .illegalCommand).resetCount = s.resetCount := rfl

/-! ## `State.finalise`, `State.absorbByte`: the fields they keep -/

@[simp] theorem State.finalise_lenHi (s : State) : s.finalise.lenHi = s.lenHi := by
  unfold State.finalise; split <;> rfl
@[simp] theorem State.finalise_w (s : State) : s.finalise.w = s.w := by
  unfold State.finalise; split <;> rfl
@[simp] theorem State.finalise_r (s : State) : s.finalise.r = s.r := by
  unfold State.finalise; split <;> rfl
@[simp] theorem State.finalise_h (s : State) : s.finalise.h = s.h := by
  unfold State.finalise; split <;> rfl
@[simp] theorem State.finalise_t (s : State) : s.finalise.t = s.t := by
  unfold State.finalise; split <;> rfl
@[simp] theorem State.finalise_errTooLarge (s : State) : s.finalise.errTooLarge = s.errTooLarge := by
  unfold State.finalise; split <;> rfl
@[simp] theorem State.finalise_errSeq (s : State) : s.finalise.errSeq = s.errSeq := by
  unfold State.finalise; split <;> rfl
@[simp] theorem State.finalise_errIll (s : State) : s.finalise.errIll = s.errIll := by
  unfold State.finalise; split <;> rfl
@[simp] theorem State.finalise_blkTrace (s : State) : s.finalise.blkTrace = s.blkTrace := by
  unfold State.finalise; split <;> rfl
@[simp] theorem State.finalise_rsp (s : State) : s.finalise.rsp = s.rsp := by
  unfold State.finalise; split <;> rfl
@[simp] theorem State.finalise_inputs (s : State) : s.finalise.inputs = s.inputs := by
  unfold State.finalise; split <;> rfl
@[simp] theorem State.finalise_resetCount (s : State) : s.finalise.resetCount = s.resetCount := by
  unfold State.finalise; split <;> rfl
@[simp] theorem State.finalise_phase (s : State) : s.finalise.phase = .load := by
  unfold State.finalise; split <;> rfl
@[simp] theorem State.finalise_mode (s : State) : s.finalise.mode = .busy := by
  unfold State.finalise; split <;> rfl
@[simp] theorem State.absorbByte_w (s : State) (b : Byte) : (s.absorbByte b).w = s.w := by
  simp only [State.absorbByte]; split <;> rfl
@[simp] theorem State.absorbByte_r (s : State) (b : Byte) : (s.absorbByte b).r = s.r := by
  simp only [State.absorbByte]; split <;> rfl
@[simp] theorem State.absorbByte_h (s : State) (b : Byte) : (s.absorbByte b).h = s.h := by
  simp only [State.absorbByte]; split <;> rfl
@[simp] theorem State.absorbByte_t (s : State) (b : Byte) : (s.absorbByte b).t = s.t := by
  simp only [State.absorbByte]; split <;> rfl
@[simp] theorem State.absorbByte_errTooLarge (s : State) (b : Byte) : (s.absorbByte b).errTooLarge = s.errTooLarge := by
  simp only [State.absorbByte]; split <;> rfl
@[simp] theorem State.absorbByte_errSeq (s : State) (b : Byte) : (s.absorbByte b).errSeq = s.errSeq := by
  simp only [State.absorbByte]; split <;> rfl
@[simp] theorem State.absorbByte_errIll (s : State) (b : Byte) : (s.absorbByte b).errIll = s.errIll := by
  simp only [State.absorbByte]; split <;> rfl
@[simp] theorem State.absorbByte_blkTrace (s : State) (b : Byte) : (s.absorbByte b).blkTrace = s.blkTrace := by
  simp only [State.absorbByte]; split <;> rfl
@[simp] theorem State.absorbByte_rsp (s : State) (b : Byte) : (s.absorbByte b).rsp = s.rsp := by
  simp only [State.absorbByte]; split <;> rfl
@[simp] theorem State.absorbByte_inputs (s : State) (b : Byte) : (s.absorbByte b).inputs = s.inputs := by
  simp only [State.absorbByte]; split <;> rfl
@[simp] theorem State.absorbByte_resetCount (s : State) (b : Byte) : (s.absorbByte b).resetCount = s.resetCount := by
  simp only [State.absorbByte]; split <;> rfl
@[simp] theorem State.absorbByte_blk (s : State) (b : Byte) :
    (s.absorbByte b).blk = s.blk.set s.fill.toNat b s.fill.isLt := by
  simp only [State.absorbByte]; split <;> rfl
@[simp] theorem State.absorbByte_lenHi (s : State) (b : Byte) :
    (s.absorbByte b).lenHi = (s.len + 8).extractLsb' 3 61 := by
  simp only [State.absorbByte]; split <;> rfl

/-! ## The length register (R24) -/

/-- `LEN` is eight times the stored 61 bits: `LEN[2:0]` is hardwired 0 (R24). -/
theorem State.len_toNat (s : State) : s.len.toNat = 8 * s.lenHi.toNat := by
  simp only [State.len, BitVec.toNat_append, BitVec.toNat_ofNat]
  rw [Nat.shiftLeft_eq, show (0 % 2 ^ 3) = 0 from rfl, Nat.or_zero]
  omega

/-- `LEN` depends on its 61 stored bits only, and so does `fill`: with this and `State.fill_eq`, `simp only` compares the
lengths of two states without comparing their other fields. -/
theorem State.len_eq (s : State) : s.len = s.lenHi ++ 0#3 := rfl

/-- The fill index as bits of `LEN[63:3]`. -/
theorem State.fill_eq (s : State) : s.fill = (s.lenHi ++ 0#3 : BitVec 64).extractLsb' 3 6 := rfl

/-- `fill` counts the message bytes past the last whole block (R9, R24). -/
theorem State.fill_toNat (s : State) : s.fill.toNat = s.len.toNat / 8 % 64 := by
  simp [State.fill, BitVec.extractLsb'_toNat, Nat.shiftRight_eq_div_pow]

/-- Writing a whole number of bytes to `LEN` and reading it back gives what was written (R24). -/
theorem State.setLen_len_toNat (s : State) (v : BitVec 64) (hv : v.toNat % 8 = 0) :
    (s.setLen v).len.toNat = v.toNat := by
  rw [State.len_toNat]
  simp [BitVec.extractLsb'_toNat, Nat.shiftRight_eq_div_pow]
  omega

/-- `LEN` never reaches `2^64 - 8` but by being it, so an accepted byte does not wrap it (R24, R101). -/
theorem State.len_add_eight (s : State) (h : s.len ≠ maxLen) : (s.len + 8).toNat = s.len.toNat + 8 := by
  have hlt := s.len.isLt
  have h8 := s.len_toNat
  have hne : s.len.toNat ≠ maxLen.toNat := fun he => h (BitVec.eq_of_toNat_eq he)
  have hm : maxLen.toNat = 18446744073709551608 := by decide
  have hadd : (s.len + 8).toNat = (s.len.toNat + 8) % 2 ^ 64 := by simp [BitVec.toNat_add]
  omega

/-! ## Legal states (R31) -/

/-- What a legal state satisfies, as propositions: R31 (2), (3) and (5). -/
theorem State.legal_iff (s : State) :
    s.Legal = true ↔
      (s.mode = .busy ↔ s.phase ≠ .idle) ∧ (s.mode = .busy ↔ s.next ≠ .none) ∧
        (s.phase ≠ .round → s.t = 0) ∧ (s.mode = .error ↔ s.errTooLarge = true) := by
  unfold State.Legal
  cases s.mode <;> cases s.phase <;> cases s.next <;> cases s.errTooLarge <;> simp

end Sys2Proof.Machine
end

