-- ==== Sys2Proof/Laws/Ops.lean ====
section
/-! SUPPORT. For each shared operation, and for each instruction and the step, one lemma that says everything it can do. The
proofs of claims cite these and do not unfold the operations. -/

namespace Sys2Proof.Machine

/-! ## The shared operations -/

/-- What the hold leads to (R150 item 1). -/
theorem unlessHeld_eq (s a : State) : unlessHeld s a = .next (if s.mode = .busy then s else a) := by
  unfold unlessHeld; split <;> rfl

/-- A held command leaves the state, an accepted one its effect (R150 item 1). -/
theorem unlessHeld_next {s a t : State} (h : unlessHeld s a = .next t) :
    (s.mode = .busy ∧ t = s) ∨ (s.mode ≠ .busy ∧ t = a) := by
  unfold unlessHeld at h
  split at h <;> simp_all

/-- The mode check lets the effect through in its mode (R150 item 3). -/
theorem State.inMode_of_eq {s : State} {m : Mode} (h : s.mode = m) (e : State) : s.inMode m e = e := by
  simp [State.inMode, h]

/-- The mode check raises SequenceError in every other mode (R150 item 3, R172). -/
theorem State.inMode_of_ne {s : State} {m : Mode} (h : s.mode ≠ m) (e : State) :
    s.inMode m e = s.raise .sequenceError := by
  simp [State.inMode, h]

/-- A micro-operation that is enabled has its effect (R65). -/
theorem State.ifEnabled_of_enabled {s : State} {i : Instr} (h : s.enabled i = true) (e : Result) :
    s.ifEnabled i e = e := by
  simp [State.ifEnabled, h]

/-- A micro-operation answers a next state only where it is enabled (R65). -/
theorem State.ifEnabled_next {s t : State} {i : Instr} {e : Result} (h : s.ifEnabled i e = .next t) :
    s.enabled i = true ∧ e = .next t := by
  unfold State.ifEnabled at h
  split at h <;> simp_all

/-- When the sequencer word is the one that selects phase `p` with index `u` (R15, R65). -/
theorem State.seq_eq_iff (s : State) (p : Phase) (u : BitVec 6) :
    s.seq = p.code ++ u ↔ s.phase = p ∧ s.t = u := by
  rw [State.seq, append_inj]
  refine and_congr_left fun _ => ?_
  cases s.phase <;> cases p <;> decide

/-- The micro-operation that phase `p` with index `u` selects is enabled exactly in `MODE = BUSY` at that word (R65). -/
theorem State.enabled_iff (s : State) (i : Instr) (p : Phase) (u : BitVec 6)
    (hi : encode i = sequencerWord p.code u) :
    s.enabled i = true ↔ s.mode = .busy ∧ s.phase = p ∧ s.t = u := by
  rw [← s.seq_eq_iff p u, State.enabled, hi, sequencerWord, Bool.and_eq_true, decide_eq_true_eq, beq_iff_eq,
    CoreWord.sequencer.injEq]
  exact and_congr_right fun _ => eq_comm

/-- When `LOAD` is enabled (R123, R65). -/
theorem State.enabled_load (s : State) : s.enabled .load = true ↔ s.mode = .busy ∧ s.phase = .load ∧ s.t = 0 :=
  s.enabled_iff .load .load 0 rfl

/-- When `ROUND` of index `u` is enabled (R135, R65). -/
theorem State.enabled_round (s : State) (u : BitVec 6) :
    s.enabled (.round u) = true ↔ s.mode = .busy ∧ s.phase = .round ∧ s.t = u :=
  s.enabled_iff (.round u) .round u rfl

/-- When `FOLD` is enabled (R137, R65). -/
theorem State.enabled_fold (s : State) : s.enabled .fold = true ↔ s.mode = .busy ∧ s.phase = .fold ∧ s.t = 0 :=
  s.enabled_iff .fold .fold 0 rfl

/-- When `PAD2` is enabled (R107, R65). -/
theorem State.enabled_pad2 (s : State) : s.enabled .pad2 = true ↔ s.mode = .busy ∧ s.phase = .pad2 ∧ s.t = 0 :=
  s.enabled_iff .pad2 .pad2 0 rfl

/-! ## The sequencer word of a state decodes to its micro-operation (R65) -/

/-- What the sequencer selects, by phase and index (R65). -/
theorem decode_seq (s : State) :
    decode (.sequencer s.seq) =
      match s.phase with
      | .idle => if s.t = 0 then .error .coreIdle else .error .unreachableSequencer
      | .load => if s.t = 0 then .ok .load else .error .unreachableSequencer
      | .round => .ok (.round s.t)
      | .fold => if s.t = 0 then .ok .fold else .error .unreachableSequencer
      | .pad2 => if s.t = 0 then .ok .pad2 else .error .unreachableSequencer := by
  simp only [decode, State.seq]
  generalize s.t = u
  revert u
  cases s.phase <;> decide

/-- In a legal busy state the sequencer selects a micro-operation, and it is enabled (R31, R65). -/
theorem State.legal_busy_enabled {s : State} (hl : s.Legal = true) (hb : s.mode = .busy) :
    ∃ i, decode (.sequencer s.seq) = .ok i ∧ s.enabled i = true ∧ i.isCommand = false := by
  obtain ⟨hp, -, ht, -⟩ := s.legal_iff.mp hl
  have hp := hp.mp hb
  rw [decode_seq]
  cases h : s.phase
  · exact absurd h hp
  · have h0 := ht (by simp [h])
    exact ⟨.load, by simp [h0], s.enabled_load.mpr ⟨hb, h, h0⟩, rfl⟩
  · exact ⟨.round s.t, by simp, (s.enabled_round s.t).mpr ⟨hb, h, rfl⟩, rfl⟩
  · have h0 := ht (by simp [h])
    exact ⟨.fold, by simp [h0], s.enabled_fold.mpr ⟨hb, h, h0⟩, rfl⟩
  · have h0 := ht (by simp [h])
    exact ⟨.pad2, by simp [h0], s.enabled_pad2.mpr ⟨hb, h, h0⟩, rfl⟩

/-! ## What each instruction can do -/

/-- `UPDATE`: held, refused by mode, refused by length, or the byte absorbed (R101, R158). -/
theorem execUpdate_next {b : Byte} {s t : State} (h : exec (.update b) s = .next t) :
    (s.mode = .busy ∧ t = s) ∨
    (s.mode ≠ .busy ∧ s.mode ≠ .absorb ∧ t = s.raise .sequenceError) ∨
    (s.mode = .absorb ∧ s.len = maxLen ∧ t = s.raise .inputTooLarge) ∨
    (s.mode = .absorb ∧ s.len ≠ maxLen ∧ t = (s.absorbByte b).respond 0) := by
  obtain ⟨hb, rfl⟩ | ⟨hb, rfl⟩ := unlessHeld_next h
  · exact .inl ⟨hb, rfl⟩
  · by_cases ha : s.mode = .absorb
    · rw [State.inMode_of_eq ha]
      by_cases hl : s.len = maxLen
      · exact .inr (.inr (.inl ⟨ha, hl, by simp [State.updateByte, hl]⟩))
      · exact .inr (.inr (.inr ⟨ha, hl, by simp [State.updateByte, hl]⟩))
    · exact .inr (.inl ⟨hb, ha, State.inMode_of_ne ha _⟩)

/-- `FINAL`: held, refused by mode, or the message finalised (R103, R158). -/
theorem execFinal_next {d : Byte} {s t : State} (h : exec (.final d) s = .next t) :
    (s.mode = .busy ∧ t = s) ∨
    (s.mode ≠ .busy ∧ s.mode ≠ .absorb ∧ t = s.raise .sequenceError) ∨
    (s.mode = .absorb ∧ t = s.finalise.respond 0) := by
  obtain ⟨hb, rfl⟩ | ⟨hb, rfl⟩ := unlessHeld_next h
  · exact .inl ⟨hb, rfl⟩
  · by_cases ha : s.mode = .absorb
    · exact .inr (.inr ⟨ha, State.inMode_of_eq ha _⟩)
    · exact .inr (.inl ⟨hb, ha, State.inMode_of_ne ha _⟩)

/-- `INIT`: held, or a new context (R152, R158). -/
theorem execInit_next {d : Byte} {s t : State} (h : exec (.init d) s = .next t) :
    (s.mode = .busy ∧ t = s) ∨ (s.mode ≠ .busy ∧ t = s.initContext) :=
  unlessHeld_next h

/-- `RDDIGEST i`: held, refused by mode, or the digest byte (R155, R158). -/
theorem execRddigest_next {i : BitVec 5} {s t : State} (h : exec (.rddigest i) s = .next t) :
    (s.mode = .busy ∧ t = s) ∨
    (s.mode ≠ .busy ∧ s.mode ≠ .done ∧ t = s.raise .sequenceError) ∨
    (s.mode = .done ∧ t = s.respond (digestByte s.h i)) := by
  obtain ⟨hb, rfl⟩ | ⟨hb, rfl⟩ := unlessHeld_next h
  · exact .inl ⟨hb, rfl⟩
  · by_cases ha : s.mode = .done
    · exact .inr (.inr ⟨ha, State.inMode_of_eq ha _⟩)
    · exact .inr (.inl ⟨hb, ha, State.inMode_of_ne ha _⟩)

/-- An illegal command word: held, or IllegalCommand (R157, R173). -/
theorem illegalCommand_next {s t : State} (h : illegalCommand s = .next t) :
    (s.mode = .busy ∧ t = s) ∨ (s.mode ≠ .busy ∧ t = s.raise .illegalCommand) :=
  unlessHeld_next h

/-- `LOAD` (R123). -/
theorem execLoad_next {s t : State} (h : exec .load s = .next t) :
    (s.mode = .busy ∧ s.phase = .load ∧ s.t = 0) ∧
    t = { s with blkTrace := s.blkTrace ++ [s.blk], w := loadWords s.blk s.w, r := s.h, t := 0, phase := .round } := by
  obtain ⟨he, hn⟩ := State.ifEnabled_next h
  exact ⟨s.enabled_load.mp he, (Host.Outcome.next.inj hn).symm⟩

/-- `ROUND` (R135). -/
theorem execRound_next {u : BitVec 6} {s t : State} (h : exec (.round u) s = .next t) :
    (s.mode = .busy ∧ s.phase = .round ∧ s.t = u) ∧
    t = { s with
      w := scheduleStep s.w u.toNat u.isLt
      r := roundOnce s.r (Config.K[u.toNat]'u.isLt) ((scheduleStep s.w u.toNat u.isLt)[u.toNat]'u.isLt)
      t := if u = 63 then 0 else u + 1
      phase := if u = 63 then .fold else .round } := by
  obtain ⟨he, hn⟩ := State.ifEnabled_next h
  exact ⟨(s.enabled_round u).mp he, (Host.Outcome.next.inj hn).symm⟩

/-- `FOLD`, by `NEXT` (R137). -/
theorem execFold_next {s t : State} (h : exec .fold s = .next t) :
    (s.mode = .busy ∧ s.phase = .fold ∧ s.t = 0) ∧
    ((s.next = .absorb ∧ t = { s with h := foldInto s.h s.r, phase := .idle, next := .none, mode := .absorb }) ∨
     (s.next = .done ∧ t = { s with h := foldInto s.h s.r, phase := .idle, next := .none, mode := .done }) ∨
     (s.next = .pad2 ∧ t = { s with h := foldInto s.h s.r, phase := .pad2 })) := by
  obtain ⟨he, hn⟩ := State.ifEnabled_next h
  refine ⟨s.enabled_fold.mp he, ?_⟩
  unfold State.afterFold at hn
  split at hn
  · exact .inl ⟨‹_›, (Host.Outcome.next.inj hn).symm⟩
  · exact .inr (.inl ⟨‹_›, (Host.Outcome.next.inj hn).symm⟩)
  · exact .inr (.inr ⟨‹_›, (Host.Outcome.next.inj hn).symm⟩)
  · cases hn

/-- `PAD2` (R107). -/
theorem execPad2_next {s t : State} (h : exec .pad2 s = .next t) :
    (s.mode = .busy ∧ s.phase = .pad2 ∧ s.t = 0) ∧
    t = { s with blk := lengthBlock s.len, next := .done, phase := .load } := by
  obtain ⟨he, hn⟩ := State.ifEnabled_next h
  exact ⟨s.enabled_pad2.mp he, (Host.Outcome.next.inj hn).symm⟩

/-- A command always answers a next state: it has its effect, raises an exception, or is held (R150, R175). -/
theorem exec_command_next (i : Instr) (s : State) (hi : i.isCommand = true) : ∃ t, exec i s = .next t := by
  cases i <;> first | exact ⟨_, rfl⟩ | exact ⟨_, unlessHeld_eq _ _⟩ | cases hi

/-- A micro-operation that is enabled answers a next state, but for `FOLD` with `NEXT = N_NONE` (R175, R137). -/
theorem exec_micro_next {i : Instr} {s : State} (hi : i.isCommand = false) (he : s.enabled i = true)
    (hn : s.next ≠ .none) : ∃ t, exec i s = .next t := by
  cases i with
  | load => exact ⟨_, State.ifEnabled_of_enabled he _⟩
  | round u => exact ⟨_, State.ifEnabled_of_enabled he _⟩
  | pad2 => exact ⟨_, State.ifEnabled_of_enabled he _⟩
  | fold =>
    simp only [exec, execFold, State.ifEnabled_of_enabled he, State.afterFold]
    cases h : s.next <;> simp_all
  | _ => cases hi

/-! ## Turns and steps -/

/-- The core's own move in a legal busy state (R10, R65). -/
theorem State.coreTurn_busy {s : State} {i : Instr} (hb : s.mode = .busy)
    (hd : decode (.sequencer s.seq) = .ok i) : s.coreTurn = .run i := by
  simp [State.coreTurn, hb, hd]

/-- Where the core is not busy it has no move (R10). -/
theorem State.coreTurn_not_busy {s : State} (hb : s.mode ≠ .busy) : s.coreTurn = .wait := by
  simp [State.coreTurn, hb]

/-- `rst` is taken in any state (R190). -/
theorem step_reset {s : State} {rest : List HostInput} (h : s.inputs = .reset :: rest) :
    step s = .next (State.atReset (s.resetCount + 1) rest) := by
  simp [step, State.nextTurn, h, State.assertReset, State.beginTurn, State.inputsLeft]

/-- A command that is ready is issued (R61, R150). -/
theorem step_command {s : State} {w : CommandWord} {rest : List HostInput} (hl : s.Legal = true)
    (h : s.inputs = .command w :: rest ∨ s.inputs = .tryCommand w :: rest) (hr : s.cmdReady w = true) :
    step s = exec (decodeCommand w) { s with inputs := rest, rsp := none } := by
  obtain h | h := h <;>
    simp [step, State.nextTurn, h, hl, State.commandTurn, hr, State.beginTurn, State.inputsLeft]

/-- A command that is not ready is held at the port, and the core moves (R150, R194). -/
theorem step_held {s : State} {w : CommandWord} {rest : List HostInput} {i : Instr} (hl : s.Legal = true)
    (h : s.inputs = .command w :: rest) (hr : s.cmdReady w = false) (hd : decode (.sequencer s.seq) = .ok i) :
    step s = exec i { s with rsp := none } := by
  have hb : s.mode = .busy := by
    by_contra hb
    simp [State.cmdReady, hb] at hr
  simp [step, State.nextTurn, h, hl, State.commandTurn, hr, State.coreTurn_busy hb hd, State.beginTurn,
    State.inputsLeft]

/-- A command offered for one step that is not ready is withdrawn, and the core moves (R150). -/
theorem step_withdrawn {s : State} {w : CommandWord} {rest : List HostInput} {i : Instr} (hl : s.Legal = true)
    (h : s.inputs = .tryCommand w :: rest) (hr : s.cmdReady w = false) (hd : decode (.sequencer s.seq) = .ok i) :
    step s = exec i { s with inputs := rest, rsp := none } := by
  have hb : s.mode = .busy := by
    by_contra hb
    simp [State.cmdReady, hb] at hr
  simp [step, State.nextTurn, h, hl, State.commandTurn, hr, State.coreTurn_busy hb hd, State.beginTurn,
    State.inputsLeft]

/-- With the port quiet the core makes its micro-operation (R10, R65). -/
theorem step_micro {s : State} {i : Instr} (hl : s.Legal = true) (hb : s.mode = .busy)
    (h : s.inputs = [] ∨ ∃ rest, s.inputs = .pause :: rest) (hd : decode (.sequencer s.seq) = .ok i) :
    step s = exec i { s with inputs := s.inputs.tail, rsp := none } := by
  obtain h | ⟨rest, h⟩ := h <;>
    simp [step, State.nextTurn, h, hl, State.coreTurn_busy hb hd, State.beginTurn, State.inputsLeft]

/-- With the port quiet and the core not busy, nothing happens (R160, R187). -/
theorem step_wait {s : State} (hl : s.Legal = true) (hb : s.mode ≠ .busy)
    (h : s.inputs = [] ∨ ∃ rest, s.inputs = .pause :: rest) :
    step s = .next { s with inputs := s.inputs.tail, rsp := none } := by
  obtain h | ⟨rest, h⟩ := h <;>
    simp [step, State.nextTurn, h, hl, State.coreTurn_not_busy hb, State.beginTurn, State.inputsLeft]

/-- An illegal launch state is refused, unless `rst` is asserted in it (U6, R190). -/
theorem step_illegal {s : State} (hl : s.Legal = false) (h : ∀ rest, s.inputs ≠ .reset :: rest) :
    step s = .refused .illegalLaunchState := by
  have ht : s.nextTurn = .illegal := by
    unfold State.nextTurn
    split
    · exact absurd ‹_› (h _)
    · simp [hl]
  simp [step, ht]

/-- The core's turn, by what it does (R10). -/
theorem State.coreTurn_cases (s : State) :
    (s.coreTurn = .wait ∧ s.mode ≠ .busy) ∨ s.coreTurn = .illegal ∨
      ∃ i, s.coreTurn = .run i ∧ s.mode = .busy ∧ decode (.sequencer s.seq) = .ok i := by
  by_cases hb : s.mode = .busy
  · cases hd : decode (.sequencer s.seq) with
    | ok i => exact .inr (.inr ⟨i, State.coreTurn_busy hb hd, hb, rfl⟩)
    | error e => exact .inr (.inl (by simp [State.coreTurn, hb, hd]))
  · exact .inl ⟨State.coreTurn_not_busy hb, hb⟩

/-- Whose turn it can be in a legal state where `rst` is not asserted (R10, R61, R150). -/
theorem State.nextTurn_cases {s : State} (hl : s.Legal = true) :
    (∃ rest, s.inputs = .reset :: rest) ∨ s.nextTurn = s.coreTurn ∨
      ∃ w rest, (s.inputs = .command w :: rest ∨ s.inputs = .tryCommand w :: rest) ∧
        s.cmdReady w = true ∧ s.nextTurn = .run (decodeCommand w) := by
  have cmd : ∀ w rest, (s.inputs = .command w :: rest ∨ s.inputs = .tryCommand w :: rest) →
      s.nextTurn = s.coreTurn ∨ (s.cmdReady w = true ∧ s.nextTurn = .run (decodeCommand w)) := by
    intro w rest h
    by_cases hr : s.cmdReady w = true <;> obtain h | h := h <;>
      simp [State.nextTurn, h, hl, State.commandTurn, hr]
  match h : s.inputs with
  | [] => exact .inr (.inl (by simp [State.nextTurn, h, hl]))
  | .reset :: rest => exact .inl ⟨rest, rfl⟩
  | .pause :: rest => exact .inr (.inl (by simp [State.nextTurn, h, hl]))
  | .command w :: rest =>
    obtain hc | ⟨hr, hc⟩ := cmd w rest (.inl h)
    · exact .inr (.inl hc)
    · exact .inr (.inr ⟨w, rest, .inl rfl, hr, hc⟩)
  | .tryCommand w :: rest =>
    obtain hc | ⟨hr, hc⟩ := cmd w rest (.inr h)
    · exact .inr (.inl hc)
    · exact .inr (.inr ⟨w, rest, .inr rfl, hr, hc⟩)

/-- Everything a step can do: a reset, or in a legal state a command or the enabled micro-operation, or a wait, on the state
whose input the turn has taken (R10, R47, R190). -/
theorem step_cases {s t : State} (h : step s = .next t) :
    ((∃ rest, s.inputs = .reset :: rest) ∧ t = s.beginTurn.assertReset) ∨
    (s.Legal = true ∧ ∃ w rest, (s.inputs = .command w :: rest ∨ s.inputs = .tryCommand w :: rest) ∧
      s.cmdReady w = true ∧ exec (decodeCommand w) s.beginTurn = .next t) ∨
    (s.Legal = true ∧ s.mode = .busy ∧
      ∃ i, decode (.sequencer s.seq) = .ok i ∧ exec i s.beginTurn = .next t) ∨
    (s.Legal = true ∧ s.mode ≠ .busy ∧ t = s.beginTurn) := by
  by_cases hr : ∃ rest, s.inputs = .reset :: rest
  · obtain ⟨rest, hin⟩ := hr
    refine .inl ⟨⟨rest, hin⟩, ?_⟩
    have ht : s.nextTurn = .reset := by simp [State.nextTurn, hin]
    unfold step at h
    rw [ht] at h
    exact (Host.Outcome.next.inj h).symm
  · by_cases hl : s.Legal = true
    · unfold step at h
      obtain hx | hc | ⟨w, rest, hin, hready, hc⟩ := State.nextTurn_cases hl
      · exact absurd hx hr
      · rw [hc] at h
        obtain ⟨hw, hb⟩ | hi | ⟨i, hi, hb, hd⟩ := s.coreTurn_cases
        · rw [hw] at h
          exact .inr (.inr (.inr ⟨hl, hb, (Host.Outcome.next.inj h).symm⟩))
        · rw [hi] at h
          cases h
        · rw [hi] at h
          exact .inr (.inr (.inl ⟨hl, hb, i, hd, h⟩))
      · rw [hc] at h
        exact .inr (.inl ⟨hl, w, rest, hin, hready, h⟩)
    · rw [step_illegal (by simpa using hl) fun rest hin => hr ⟨rest, hin⟩] at h
      cases h

/-! ## Runs -/

/-- A run of `a + b` steps that gets through its first `a`. -/
theorem run_add_of_next {a : Nat} {s t : State} (h : core.run a s = .next t) (b : Nat) :
    core.run (a + b) s = core.run b t := by
  induction a generalizing s with
  | zero => cases h; rw [Nat.zero_add]
  | succ a ih =>
    rw [show a + 1 + b = a + b + 1 by omega]
    simp only [Host.Core.run] at h ⊢
    cases hs : core.step s with
    | next u => rw [hs] at h; exact ih h
    | fault r => rw [hs] at h; cases h
    | refused r => rw [hs] at h; cases h

/-- A run of one more step than one that starts with this step. -/
theorem run_succ_of_step {s t : State} (h : step s = .next t) (k : Nat) : core.run (k + 1) s = core.run k t := by
  have hs : core.step s = .next t := h
  simp only [Host.Core.run, hs]

end Sys2Proof.Machine
end

