-- ==== Sys2Proof/Laws/PerInstr.lean ====
section
/-! SUPPORT. One lemma per constructor for the statements "for all instructions". The family `EncodesInRow`: the word of a
well-formed instruction lies in the instruction's own row of the opcode table (R62, R65). -/

namespace Sys2Proof.Laws.EncodesInRow

/-- The encoding of a well-formed instruction has the bits its row of the opcode table fixes. -/
def Statement (i : Instr) : Prop := i.WellFormed = true → i.row.holds (encode i) = true

theorem nop (data : Byte) : Statement (.nop data) := by revert data; unfold Statement; decide

theorem init (data : Byte) : Statement (.init data) := by revert data; unfold Statement; decide

theorem update (b : Byte) : Statement (.update b) := by revert b; unfold Statement; decide

theorem final (data : Byte) : Statement (.final data) := by revert data; unfold Statement; decide

theorem rddigest (i : BitVec 5) : Statement (.rddigest i) := by revert i; unfold Statement; decide

theorem rdstat (data : Byte) : Statement (.rdstat data) := by revert data; unfold Statement; decide

theorem reserved6 (data : Byte) : Statement (.reserved6 data) := by revert data; unfold Statement; decide

theorem reserved7 (data : Byte) : Statement (.reserved7 data) := by revert data; unfold Statement; decide

theorem reserved8 (data : Byte) : Statement (.reserved8 data) := by revert data; unfold Statement; decide

theorem reserved9 (data : Byte) : Statement (.reserved9 data) := by revert data; unfold Statement; decide

theorem reservedA (data : Byte) : Statement (.reservedA data) := by revert data; unfold Statement; decide

theorem reservedB (data : Byte) : Statement (.reservedB data) := by revert data; unfold Statement; decide

theorem reservedC (data : Byte) : Statement (.reservedC data) := by revert data; unfold Statement; decide

theorem reservedD (data : Byte) : Statement (.reservedD data) := by revert data; unfold Statement; decide

theorem reservedE (data : Byte) : Statement (.reservedE data) := by revert data; unfold Statement; decide

theorem reservedF (data : Byte) : Statement (.reservedF data) := by revert data; unfold Statement; decide

theorem rddigestIllegal1xx (data : Byte) : Statement (.rddigestIllegal1xx data) := by revert data; unfold Statement; decide

theorem rddigestIllegal01x (data : Byte) : Statement (.rddigestIllegal01x data) := by revert data; unfold Statement; decide

theorem rddigestIllegal001 (data : Byte) : Statement (.rddigestIllegal001 data) := by revert data; unfold Statement; decide

theorem load : Statement .load := fun _ => by decide

theorem round (t : BitVec 6) : Statement (.round t) := by revert t; unfold Statement; decide

theorem fold : Statement .fold := fun _ => by decide

theorem pad2 : Statement .pad2 := fun _ => by decide

end Sys2Proof.Laws.EncodesInRow
end

