-- ==== Sys2Proof/Laws/Units.lean ====
section
/-! SUPPORT. One spec lemma per function of the three units: elements of the blocks and schedule files they build, and the
unrolling of their counted loops. -/

namespace Sys2Proof.Machine

/-! ## The padder unit -/

/-- Byte `j` after `MemWrite(56, 8, v)` (R7, R44). -/
theorem memWrite_length_getElem (blk : Block) (v : BitVec 64) (j : Nat) (hj : j < 64) :
    (memWrite blk 56 8 v)[j] = if 56 ≤ j then v.extractLsb' (8 * (63 - j)) 8 else blk[j] := by
  simp only [memWrite, Vector.getElem_ofFn]
  by_cases h : 56 ≤ j
  · rw [if_pos ⟨h, by omega⟩, if_pos h]
  · rw [if_neg (by omega), if_neg h]
    rfl

/-- Byte `j` of the block `FINAL` pads from `fill` on, before any length field (R103). -/
theorem padFrom_getElem (blk : Block) (fill : BitVec 6) (j : Nat) (hj : j < 64) :
    (padFrom blk fill)[j] = if j < fill.toNat then blk[j] else if j = fill.toNat then 0x80 else 0x00 := by
  simp only [padFrom, Vector.getElem_ofFn]
  rfl

/-- Byte `j` of the second padding block (R107). -/
theorem lengthBlock_getElem (len : BitVec 64) (j : Nat) (hj : j < 64) :
    (lengthBlock len)[j] = if 56 ≤ j then len.extractLsb' (8 * (63 - j)) 8 else 0x00 := by
  unfold lengthBlock writeLength
  rw [memWrite_length_getElem]
  simp

/-- Byte `j` of block `q` of the padded message (R104, R105). -/
theorem paddedBlock_getElem (m : List Byte) (q j : Nat) (hj : j < 64) :
    (paddedBlock m q)[j] = paddedByte m (64 * q + j) := by
  simp [paddedBlock]

/-- `UPDATE`'s effect where the byte fills the block (R101). -/
theorem State.absorbByte_of_full {s : State} (h : s.fill = 63) (b : Byte) :
    s.absorbByte b =
      { s with
        blk := s.blk.set s.fill.toNat b s.fill.isLt
        lenHi := (s.len + 8).extractLsb' 3 61
        next := .absorb
        phase := .load
        mode := .busy } := by
  simp only [State.absorbByte, State.setLen]
  exact if_pos h

/-- `UPDATE`'s effect where the byte does not fill the block (R101). -/
theorem State.absorbByte_of_not_full {s : State} (h : s.fill ≠ 63) (b : Byte) :
    s.absorbByte b =
      { s with
        blk := s.blk.set s.fill.toNat b s.fill.isLt
        lenHi := (s.len + 8).extractLsb' 3 61 } := by
  simp only [State.absorbByte, State.setLen]
  exact if_neg h

/-- The length after an absorbed byte (R101, R24). -/
theorem State.absorbByte_len_toNat {s : State} (h : s.len ≠ maxLen) (b : Byte) :
    (s.absorbByte b).len.toNat = s.len.toNat + 8 := by
  have h8 := s.len_toNat
  have hset := State.setLen_len_toNat s (s.len + 8) (by rw [s.len_add_eight h]; omega)
  rw [s.len_add_eight h] at hset
  rw [← hset, State.len_toNat, State.len_toNat]
  simp

/-- `FINAL`'s effect where the length field fits into the block (R103). -/
theorem State.finalise_of_short {s : State} (h : s.fill.toNat ≤ 55) :
    s.finalise =
      { s with blk := writeLength (padFrom s.blk s.fill) s.len, next := .done, phase := .load, mode := .busy } := by
  unfold State.finalise
  exact if_pos h

/-- `FINAL`'s effect where the length field goes into a second block (R103). -/
theorem State.finalise_of_long {s : State} (h : ¬ s.fill.toNat ≤ 55) :
    s.finalise = { s with blk := padFrom s.blk s.fill, next := .pad2, phase := .load, mode := .busy } := by
  unfold State.finalise
  exact if_neg h

/-! ## The scheduler unit -/

/-- Word `i` after `LOAD` (R121, R123). -/
theorem loadWords_getElem (blk : Block) (w : ScheduleWords) (i : Nat) (hi : i < 64) :
    (loadWords blk w)[i] = if i < 16 then blockWord blk i else w[i] := by
  simp [loadWords]

/-- A schedule step of index `n` keeps every word but `W[n]`, and all of them if `n ≤ 15` (R124). -/
theorem scheduleStep_getElem_of_ne (w : ScheduleWords) (n : Nat) (hn : n < 64) (j : Nat) (hj : j < 64)
    (h : j ≠ n ∨ n < 16) : (scheduleStep w n hn)[j] = w[j] := by
  unfold scheduleStep
  split
  · rw [Vector.getElem_set_ne]
    omega
  · rfl

/-- A schedule step of index `n ≥ 16` writes the recurrence's word (R122, R124). -/
theorem scheduleStep_getElem_self (w : ScheduleWords) (n : Nat) (hn : n < 64) (h : 16 ≤ n) :
    (scheduleStep w n hn)[n] = scheduleWord w n hn := by
  simp only [scheduleStep, if_pos h, Vector.getElem_set_self]

/-- Before any schedule step. -/
@[simp] theorem scheduleUpTo_zero (w : ScheduleWords) : scheduleUpTo w 0 = w := rfl

/-- The schedule loop, unrolled once. -/
theorem scheduleUpTo_succ (w : ScheduleWords) (n : Nat) (hn : n < 64) :
    scheduleUpTo w (n + 1) = scheduleStep (scheduleUpTo w n) n hn := dif_pos hn

/-- A word below 16 or below `n` is final after the steps below `n` (R122). -/
theorem scheduleUpTo_getElem_stable (w : ScheduleWords) (n j : Nat) (hj : j < 64) (h : j < 16 ∨ j < n) :
    ∀ k, n ≤ k → (scheduleUpTo w k)[j] = (scheduleUpTo w n)[j] := by
  intro k hk
  induction k with
  | zero => simp [Nat.le_zero.mp hk]
  | succ k ih =>
    by_cases hc : n = k + 1
    · subst hc
      rfl
    · rw [← ih (by omega)]
      simp only [scheduleUpTo]
      split
      · exact scheduleStep_getElem_of_ne _ _ _ _ hj (by omega)
      · rfl

/-! ## The compressor unit -/

/-- A round constant is its word of the table's rows (R131). -/
theorem K_getElem (t : Nat) (ht : t < 64) : Config.K[t] = Config.roundConstant ⟨t, ht⟩ := by
  simp [Config.K]

/-- Before any round. -/
@[simp] theorem roundsUpTo_zero (schedule : ScheduleWords) (r : HashState) : roundsUpTo schedule r 0 = r := rfl

/-- The round loop, unrolled once (R133). -/
theorem roundsUpTo_succ (schedule : ScheduleWords) (r : HashState) (n : Nat) (hn : n < 64) :
    roundsUpTo schedule r (n + 1) = roundOnce (roundsUpTo schedule r n) Config.K[n] schedule[n] := dif_pos hn

/-- Chaining one more Block (R138). -/
theorem chain_append (blocks : List Block) (blk : Block) :
    chain (blocks ++ [blk]) = compress (chain blocks) (expand blk) := by
  simp [chain]

/-! ## Digest bytes -/

/-- Digest byte `4i + j` (R49, R73). -/
theorem digestByte_ofNat (h : HashState) (i j : Nat) (hi : i < 8) (hj : j < 4) :
    digestByte h (BitVec.ofNat 5 (4 * i + j)) = h[i].extractLsb' (24 - 8 * j) 8 := by
  unfold digestByte
  have hdiv : (BitVec.ofNat 5 (4 * i + j)).toNat / 4 = i := by simp; omega
  have hmod : (BitVec.ofNat 5 (4 * i + j)).toNat % 4 = j := by simp; omega
  simp only [hdiv, hmod]

/-! ## Blocks as bytes -/

/-- How many bytes a list of Blocks holds. -/
theorem blocksBytes_length (blocks : List Block) : (blocks.flatMap Vector.toList).length = 64 * blocks.length := by
  induction blocks with
  | nil => rfl
  | cons b blocks ih => simp [ih]; omega

/-- Byte `64q + j` of a list of Blocks is byte `j` of Block `q`. -/
theorem blocksBytes_getElem? (blocks : List Block) (q j : Nat) (hq : q < blocks.length) (hj : j < 64) :
    (blocks.flatMap Vector.toList)[64 * q + j]? = some blocks[q][j] := by
  induction blocks generalizing q with
  | nil => simp at hq
  | cons b blocks ih =>
    rw [List.flatMap_cons]
    cases q with
    | zero => rw [List.getElem?_append_left (by simp; omega)]; simp [hj]
    | succ q =>
      rw [List.getElem?_append_right (by simp; omega)]
      have hprev := ih q (by simpa using hq)
      simp only [Vector.length_toList, List.getElem_cons_succ]
      rw [← hprev]
      congr 1
      omega

end Sys2Proof.Machine
end

