-- ==== Sys2Proof/Tests/Slice0.lean ====
section
/-! SUPPORT. The model's own tests: well-formedness, words written out from the tables of 30_encoding.md, vectors of
95_test_vectors.md (each named in its test), single steps, and for every obligation with hypotheses a witness that meets
them. -/

namespace Sys2Proof.Tests

open Sys2Proof.Machine

/-! ## Small states -/

/-- A state in the given mode with no block in progress: the launch state of program P5 but for its mode and length. -/
def quiet (mode : Mode) : State where
  blk := Vector.replicate 64 0x11
  lenHi := 0
  next := .none
  w := Vector.replicate 64 0
  r := Vector.replicate 8 0
  h := Config.IV
  t := 0
  phase := .idle
  mode := mode
  errTooLarge := mode = .error
  errSeq := false
  errIll := false
  blkTrace := []
  rsp := none
  inputs := []
  resetCount := 0

/-- A state in `ABSORB` after the given number of message bytes. -/
def absorbing (bytes : Nat) : State := { quiet .absorb with lenHi := BitVec.ofNat 61 bytes }

/-- A state in `BUSY`. -/
def busy (phase : Phase) (next : Next) (t : BitVec 6) : State := { quiet .busy with phase := phase, next := next, t := t }

/-- What a test reads of an outcome; `none` if the machine stopped. -/
def after {α : Type} (result : Result) (read : State → α) : Option α :=
  match result with
  | .next t => some (read t)
  | .fault _ => none
  | .refused _ => none

/-- The block of the message "abc" (V-PAD-2). -/
def abcBlock : Block := paddedBlock [0x61, 0x62, 0x63] 0

/-! ## Well-formedness: an ill-formed term for each check -/

theorem test_illFormed_illegal1xx : (Instr.rddigestIllegal1xx 0x7F).WellFormed = false := by decide

theorem test_illFormed_illegal01x : (Instr.rddigestIllegal01x 0xC0).WellFormed = false := by decide

theorem test_illFormed_illegal001 : (Instr.rddigestIllegal001 0x60).WellFormed = false := by decide

/-! ## Decoding: the words of R62 written as `op` then `data`, those of R65 as `PHASE` then `t` -/

theorem test_decode_nop : decode (.command 0b0000_11111111) = .ok (.nop 0xFF) := by decide

theorem test_decode_init : decode (.command 0b0001_00000000) = .ok (.init 0x00) := by decide

theorem test_decode_update : decode (.command 0b0010_10000001) = .ok (.update 0x81) := by decide

theorem test_decode_final : decode (.command 0b0011_00000001) = .ok (.final 0x01) := by decide

theorem test_decode_rddigest : decode (.command 0b0100_000_10011) = .ok (.rddigest 19) := by decide

theorem test_decode_rdstat : decode (.command 0b0101_00000000) = .ok (.rdstat 0x00) := by decide

theorem test_decode_reserved6 : decode (.command 0b0110_00000110) = .ok (.reserved6 0x06) := by decide

theorem test_decode_reserved7 : decode (.command 0b0111_00000111) = .ok (.reserved7 0x07) := by decide

theorem test_decode_reserved8 : decode (.command 0b1000_00001000) = .ok (.reserved8 0x08) := by decide

theorem test_decode_reserved9 : decode (.command 0b1001_00001001) = .ok (.reserved9 0x09) := by decide

theorem test_decode_reservedA : decode (.command 0b1010_00001010) = .ok (.reservedA 0x0A) := by decide

theorem test_decode_reservedB : decode (.command 0b1011_00001011) = .ok (.reservedB 0x0B) := by decide

theorem test_decode_reservedC : decode (.command 0b1100_00001100) = .ok (.reservedC 0x0C) := by decide

theorem test_decode_reservedD : decode (.command 0b1101_00001101) = .ok (.reservedD 0x0D) := by decide

theorem test_decode_reservedE : decode (.command 0b1110_00001110) = .ok (.reservedE 0x0E) := by decide

theorem test_decode_reservedF : decode (.command 0b1111_00001111) = .ok (.reservedF 0x0F) := by decide

theorem test_decode_illegal1xx : decode (.command 0b0100_1_0101010) = .ok (.rddigestIllegal1xx 0xAA) := by decide

theorem test_decode_illegal01x : decode (.command 0b0100_01_100000) = .ok (.rddigestIllegal01x 0x60) := by decide

theorem test_decode_illegal001 : decode (.command 0b0100_001_11111) = .ok (.rddigestIllegal001 0x3F) := by decide

theorem test_decode_load : decode (.sequencer 0b001_000000) = .ok .load := by decide

theorem test_decode_round : decode (.sequencer 0b010_100001) = .ok (.round 33) := by decide

theorem test_decode_fold : decode (.sequencer 0b011_000000) = .ok .fold := by decide

theorem test_decode_pad2 : decode (.sequencer 0b100_000000) = .ok .pad2 := by decide

/-- R65: no micro-operation in `(0, 0)`; `(P_FOLD, 1)` and `PHASE = 7` are unreachable. -/
theorem test_decode_none :
    decode (.sequencer 0b000_000000) = .error .coreIdle ∧
    decode (.sequencer 0b011_000001) = .error .unreachableSequencer ∧
    decode (.sequencer 0b111_000000) = .error .unreachableSequencer := by decide

/-- The opcode table's numbering: a command word by its 12 bits, a sequencer word by its 9. -/
theorem test_decodeTableWord :
    decodeTableWord 12 0x261 = some (.update 0x61) ∧ decodeTableWord 16 0x261 = some (.update 0x61) ∧
    decodeTableWord 9 0x100 = some .pad2 ∧ decodeTableWord 16 0x100 = some (.init 0x00) ∧
    decodeTableWord 16 0x0BF = some (.round 63) ∧ decodeTableWord 16 0x000 = some (.nop 0x00) := by decide

/-- A placed command word is what the next step from reset issues: `INIT`, V-C-5. -/
theorem test_withFetchWord_command :
    step (State.reset.withFetchWord 12 0x100) = exec (.init 0) (State.reset.withFetchWord 12 0x100).beginTurn := by
  rfl

/-- A placed sequencer word is the micro-operation of the next step from reset. -/
theorem test_withFetchWord_microOperation :
    step (State.reset.withFetchWord 9 0x0BF) = exec (.round 63) (State.reset.withFetchWord 9 0x0BF).beginTurn := by
  rfl

/-! ## Primitives (V-PR) -/

/-- V-PR-3, V-PR-4. -/
theorem test_add32 : add32 0xfffffff0 0x20 = 0x10 ∧ add32 0x6a09e667 0x5d6aebcd = 0xc774d234 := by decide

/-- V-PR-5 to V-PR-8. -/
theorem test_rotr :
    rotr 1 1 = 0x80000000 ∧ rotr 0x80000000 31 = 1 ∧ rotr 0x12345678 13 = 0xb3c091a2 ∧
    rotr 0x12345678 0 = 0x12345678 ∧ rotr 0x12345678 32 = 0x12345678 := by decide

/-- V-PR-10, V-PR-11. -/
theorem test_shr : shr 0x12345678 3 = 0x02468acf ∧ shr 0xffffffff 10 = 0x003fffff := by decide

/-- V-PR-12, V-PR-14. -/
theorem test_ch :
    ch 0x510e527f 0x9b05688c 0x1f83d9ab = 0x1f85c98c ∧ ch 0xffff0000 0x12345678 0x9abcdef0 = 0x1234def0 := by decide

/-- V-PR-15, V-PR-17. -/
theorem test_maj :
    maj 0x6a09e667 0xbb67ae85 0x3c6ef372 = 0x3a6fe667 ∧ maj 0xffff0000 0x12345678 0x9abcdef0 = 0x9abc5670 := by decide

/-- V-PR-18 to V-PR-21, at 12345678. -/
theorem test_sigmas :
    bigSigma0 0x12345678 = 0x66146474 ∧ bigSigma1 0x12345678 = 0x3561abda ∧
    smallSigma0 0x12345678 = 0xe7fce6ee ∧ smallSigma1 0x12345678 = 0xa1f78649 := by decide

/-! ## The pure functions -/

/-- V-PAD-2, V-PAD-4: where the length and 0x80 lie. -/
theorem test_pad :
    abcBlock[2] = 0x63 ∧ abcBlock[3] = 0x80 ∧ abcBlock[4] = 0 ∧ abcBlock[62] = 0 ∧ abcBlock[63] = 0x18 ∧
    (paddedBlock (List.replicate 56 0x61) 0)[56] = 0x80 ∧ (paddedBlock (List.replicate 56 0x61) 1)[62] = 0x01 ∧
    (paddedBlock (List.replicate 56 0x61) 1)[63] = 0xc0 := by decide +kernel

/-- V-EX-1. -/
theorem test_expand :
    (expand abcBlock)[15] = 0x18 ∧ (expand abcBlock)[18] = 0x7da86405 ∧ (expand abcBlock)[63] = 0x12b1edeb := by
  decide +kernel

/-- The first 64 primes, 2 to 311, by trial division. -/
def primes : List Nat := (List.range 312).filter fun p => 2 ≤ p && (List.range p).all fun d => d < 2 || p % d != 0

/-- `v` is the first 32 bits of the fractional part of the `k`-th root of `p`, in exact integers: with the integer part put
before it, it is the largest number whose `k`-th power is at most `p · 2^(32k)`. -/
def isFractionOfRoot (k p : Nat) (v : Word) : Bool :=
  let whole := ((List.range 20).filter fun r => 0 < r && r ^ k ≤ p).length
  let root := whole * 2 ^ 32 + v.toNat
  root ^ k ≤ p * 2 ^ (32 * k) && p * 2 ^ (32 * k) < (root + 1) ^ k

/-- The definition R131 gives of its table: `K[i]` is of the cube root of the `i`-th prime. -/
theorem test_K_cubeRoots :
    primes.length = 64 ∧ (List.zipWith (isFractionOfRoot 3) primes Config.K.toList).all id = true := by decide +kernel

/-- The definition R132 gives of its table: `IV[i]` is of the square root of the `i`-th prime. -/
theorem test_IV_squareRoots :
    (List.zipWith (isFractionOfRoot 2) primes Config.IV.toList).all id = true ∧ Config.IV.toList.length = 8 := by
  decide +kernel

/-- The table of R131, at the ends of its first and last rows. -/
theorem test_K_order :
    Config.K[0] = 0x428a2f98 ∧ Config.K[7] = 0xab1c5ed5 ∧ Config.K[8] = 0xd807aa98 ∧ Config.K[63] = 0xc67178f2 := by
  decide +kernel

/-- V-CM-3: `compress` of the zero state and the zero schedule. -/
theorem test_compress :
    compress (Vector.replicate 8 0) (Vector.replicate 64 0) =
      #v[0x7ca51614, 0x425c3ba8, 0xce54dd2f, 0xc2020ae7, 0xb6e574d1, 0x98136d0f, 0xae7e26cc, 0xbf0be7a6] := by
  decide +kernel

/-- V-H-2, the digest of "abc". -/
theorem test_sha256_abc :
    (sha256 [0x61, 0x62, 0x63]).toOption.map digestText =
      some "ba7816bf8f01cfea414140de5dae2223b00361a396177a9cb410ff61f20015ad".toList := by decide +kernel

/-! ## Single steps: commands (V-C) -/

/-- V-C-9: accepted in `BUSY`. -/
theorem test_nop : after (exec (.nop 0) (busy .round .done 5)) (fun t => (t.rsp, t.status, t.t)) =
    some (some 0x00, 0x41, 5) := by decide

/-- V-C-9, V-C-19. -/
theorem test_rdstat :
    after (exec (.rdstat 0) (busy .load .done 0)) State.rsp = some (some 0x41) ∧
    after (exec (.rdstat 0) (quiet .done)) State.rsp = some (some 0x62) ∧
    after (exec (.rdstat 0) (quiet .error)) State.rsp = some (some 0x84) := by decide

/-- V-C-17. -/
theorem test_init : after (exec (.init 0) (quiet .error)) (fun t => (t.status, t.len, t.h)) =
    some (0x20, 0, Config.IV) := by decide

/-- V-C-7: the 64th byte. -/
theorem test_update_fills : after (exec (.update 0x61) (absorbing 63)) (fun t => (t.blk[63], t.len, t.status)) =
    some (0x61, 512, 0x41) := by decide

/-- V-C-15: InputTooLarge. -/
theorem test_update_tooLarge :
    after (exec (.update 0xbb) (absorbing (2 ^ 61 - 1))) (fun t => (t.blk[63], t.len, t.status)) =
      some (0x11, 0xFFFFFFFFFFFFFFF8, 0x84) := by decide

/-- Program P2: `FINAL` after three bytes. -/
theorem test_final : after (exec (.final 0) (absorbing 3)) (fun t => (t.blk[2], t.blk[3], t.blk[4], t.blk[63], t.next)) =
    some (0x11, 0x80, 0x00, 0x18, .done) := by decide

/-- Program P5b: `FINAL` at the largest length. -/
theorem test_final_largest :
    after (exec (.final 0) (absorbing (2 ^ 61 - 1))) (fun t => (t.blk[62], t.blk[63], t.next, t.status)) =
      some (0x11, 0x80, .pad2, 0x41) := by decide

/-- R155 on `H = IV`: bytes 0, 3 and 31 of 6a09e667 ... 5be0cd19. -/
theorem test_rddigest :
    after (exec (.rddigest 0) (quiet .done)) State.rsp = some (some 0x6a) ∧
    after (exec (.rddigest 3) (quiet .done)) State.rsp = some (some 0x67) ∧
    after (exec (.rddigest 31) (quiet .done)) State.rsp = some (some 0x19) := by decide

/-- V-C-4. -/
theorem test_rddigest_sequenceError :
    after (exec (.rddigest 0) (quiet .idle)) (fun t => (t.rsp, t.status)) = some (some 0x00, 0x08) := by decide

/-- V-C-10. -/
theorem test_reserved7 : after (exec (.reserved7 0) (quiet .absorb)) State.status = some 0x30 := by decide

/-- V-C-11. -/
theorem test_illegal001 : after (exec (.rddigestIllegal001 0x20) (quiet .done)) State.status = some 0x72 := by decide

/-- V-C-8: held, while the core makes its micro-operation and the command stays at the port. -/
theorem test_held :
    after (step { busy .load .done 0 with inputs := [.command 0x261] }) (fun t => (t.inputs, t.phase, t.rsp)) =
      some ([.command 0x261], .round, none) := by decide

/-! ## Single steps: micro-operations -/

/-- Program P2: `LOAD` of the "abc" block. -/
theorem test_load :
    after (exec .load { busy .load .done 0 with blk := abcBlock }) (fun t => (t.w[0], t.w[15], t.r, t.phase, t.t)) =
      some (0x61626380, 0x18, Config.IV, .round, 0) := by decide +kernel

/-- V-CM-1, row 0. -/
theorem test_round :
    after (exec (.round 0) { busy .round .done 0 with w := loadWords abcBlock (Vector.replicate 64 0), r := Config.IV })
        (fun t => (t.r, t.t, t.phase)) =
      some (#v[0x5d6aebcd, 0x6a09e667, 0xbb67ae85, 0x3c6ef372, 0xfa2a4622, 0x510e527f, 0x9b05688c, 0x1f83d9ab],
        1, .round) := by decide +kernel

/-- V-CM-1, row 63, from row 62: the last round leads to `FOLD`. -/
theorem test_round_last :
    after (exec (.round 63) { busy .round .done 63 with
        w := expand abcBlock
        r := #v[0xd39a2165, 0x04d24d6c, 0xb85e2ce9, 0xb6ae8fff, 0xfb121210, 0x948d25b6, 0x961f4894, 0xb21bad3d] })
        (fun t => (t.r, t.t, t.phase)) =
      some (#v[0x506e3058, 0xd39a2165, 0x04d24d6c, 0xb85e2ce9, 0x5ef50f24, 0xfb121210, 0x948d25b6, 0x961f4894],
        0, .fold) := by decide +kernel

/-- V-CM-1, the fold. -/
theorem test_fold :
    after (exec .fold { busy .fold .done 0 with
        r := #v[0x506e3058, 0xd39a2165, 0x04d24d6c, 0xb85e2ce9, 0x5ef50f24, 0xfb121210, 0x948d25b6, 0x961f4894] })
        (fun t => (t.h, t.status)) =
      some (#v[0xba7816bf, 0x8f01cfea, 0x414140de, 0x5dae2223, 0xb00361a3, 0x96177a9c, 0xb410ff61, 0xf20015ad],
        0x62) := by decide +kernel

/-- Program P3: `FOLD` of the first of two final blocks leads to `PAD2`, in `BUSY`. -/
theorem test_fold_pad2 :
    after (exec .fold (busy .fold .pad2 0)) (fun t => (t.phase, t.next, t.mode)) = some (.pad2, .pad2, .busy) := by
  decide

/-- Program P3: `PAD2` after 56 bytes. -/
theorem test_pad2 :
    after (exec .pad2 { busy .pad2 .pad2 0 with lenHi := 56 })
        (fun t => (t.blk[0], t.blk[55], t.blk[62], t.blk[63], t.next, t.phase)) =
      some (0x00, 0x00, 0x01, 0xc0, .done, .load) := by decide +kernel

/-- R16, U6: a micro-operation that is not enabled is no step. -/
theorem test_notEnabled : exec .load (quiet .absorb) = .fault .notEnabled := by rfl

/-- R190: `rst` in the middle of a message. -/
theorem test_reset :
    after (step { absorbing 70 with inputs := [.reset, .command 0x500] }) (fun t => (t.status, t.blkTrace, t.inputs)) =
      some (0x00, [], [.command 0x500]) := by decide

/-! ## Witnesses: for every obligation with hypotheses, values that meet them -/

theorem test_witness_DecodeInvertsEncode :
    (Instr.rddigestIllegal1xx 0x80).WellFormed = true ∧ (Instr.rddigestIllegal1xx 0xFF).WellFormed = true ∧
    (Instr.rddigestIllegal01x 0x40).WellFormed = true ∧ (Instr.rddigestIllegal01x 0x7F).WellFormed = true ∧
    (Instr.rddigestIllegal001 0x20).WellFormed = true ∧ (Instr.rddigestIllegal001 0x3F).WellFormed = true ∧
    (Instr.rddigest 31).WellFormed = true ∧ (Instr.round 63).WellFormed = true := by decide

theorem test_witness_EncodeInvertsDecode :
    decode (.command 0xFFF) = .ok (.reservedF 0xFF) ∧ decode (.sequencer 0x0BF) = .ok (.round 63) := by decide

theorem test_witness_RotateMovesEveryBit : (31 : Nat) < 32 ∧ ((32 : Fin 33).val = 0 ∨ (32 : Fin 33).val = 32) := by
  decide

theorem test_witness_ShiftDiscardsBits : (31 : Nat) < 32 ∧ 31 + 0 ≤ 31 ∧ ¬ 31 + 1 ≤ 31 := by decide

theorem test_witness_ChooseAndMajorityBitwise : (0 : Nat) < 32 ∧ (31 : Nat) < 32 := by decide

theorem test_witness_PaddedLengthIsSmallest : 512 % 512 = 0 ∧ 447 + 1 + 64 ≤ 512 := by decide

theorem test_witness_PadFailsOnlyWhenTooLarge :
    2 ^ 61 ≤ (List.replicate (2 ^ 61) (0x00 : Byte)).length ∧
    (List.replicate (2 ^ 61 - 1) (0x00 : Byte)).length < 2 ^ 61 := by
  simp only [List.length_replicate]; decide

/-- Lengths 0, 55, 56 and 64: one block and two, with and without a whole message block. -/
theorem test_witness_PaddingHasTheStatedLayout :
    (∃ blocks, pad [] = .ok blocks) ∧ (∃ blocks, pad (List.replicate 55 0x61) = .ok blocks) ∧
    (∃ blocks, pad (List.replicate 56 0x61) = .ok blocks) ∧ ∃ blocks, pad (List.replicate 64 0x61) = .ok blocks :=
  ⟨⟨_, rfl⟩, ⟨_, rfl⟩, ⟨_, rfl⟩, ⟨_, rfl⟩⟩

theorem test_witness_PadBlockCount : (∃ blocks, pad (List.replicate 64 0x61) = .ok blocks) ∧ 0 < 64 / 64 :=
  ⟨⟨_, rfl⟩, by decide⟩

theorem test_witness_PadIsInjective : ∃ blocks, pad [0x61] = .ok blocks ∧ pad [0x61] = .ok blocks := ⟨_, rfl, rfl⟩

theorem test_witness_ExpandFollowsTheRecurrence : 16 ≤ 16 ∧ 16 < 64 ∧ 16 ≤ 63 ∧ 63 < 64 := by decide

theorem test_witness_RingBufferComputesTheSchedule : 0 < 64 ∧ 15 < 64 ∧ 16 < 64 ∧ 63 < 64 := by decide

theorem test_witness_CompressIsRoundsThenFold : 0 < 64 ∧ 63 < 64 := by decide

theorem test_witness_ResetLeavesTheControlState :
    ({ absorbing 3 with inputs := [.reset] } : State).inputs = .reset :: [] ∧ Instr.load.isCommand = false := by decide

/-- Ready in every mode; in `BUSY` for `NOP` and `RDSTAT`. -/
theorem test_witness_StepIssuesAReadyCommand :
    (∀ m ∈ [Mode.idle, .absorb, .done, .error],
      (quiet m).Legal = true ∧ (quiet m).cmdReady 0x261 = true ∧ decode (.command 0x261) = .ok (.update 0x61)) ∧
    (busy .load .done 0).Legal = true ∧ (busy .load .done 0).cmdReady 0x500 = true ∧
    decode (.command 0x500) = .ok (.rdstat 0) := by decide

/-- Every micro-operation, with the held command of V-C-8. -/
theorem test_witness_StepRunsTheMicroOperation :
    (∀ x ∈ [(busy .load .absorb 0, Instr.load), (busy .round .done 0, .round 0), (busy .round .pad2 63, .round 63),
        (busy .fold .done 0, .fold), (busy .pad2 .pad2 0, .pad2)],
      x.1.Legal = true ∧ x.1.mode = .busy ∧ decode (.sequencer x.1.seq) = .ok x.2) ∧
    (busy .load .absorb 0).cmdReady 0x300 = false := by decide

theorem test_witness_WaitingChangesNothing :
    ∀ m ∈ [Mode.idle, .absorb, .done, .error], (quiet m).Legal = true ∧ (quiet m).mode ≠ .busy ∧
      (quiet m).inputs = [] := by decide

theorem test_witness_ExactlyOneMicroOperationWhileBusy :
    (busy .round .done 63).Legal = true ∧ (busy .round .done 63).mode = .busy ∧
    (quiet .done).Legal = true ∧ (quiet .done).mode ≠ .busy := by decide

/-- `BUSY` with no phase is no legal state. -/
theorem test_witness_LegalStatesAlwaysStep :
    (quiet .idle).Legal = true ∧ (busy .idle .none 0).Legal = false ∧ (busy .idle .none 0).inputs = [] := by decide

theorem test_witness_InitStartsAContext : (quiet .idle).mode ≠ .busy ∧ (busy .load .done 0).mode = .busy := by decide

/-- Fill 0, 62 and 63, and the length one byte below the largest. -/
theorem test_witness_UpdateAbsorbsTheByte :
    (∀ n ∈ [0, 62, 63, 2 ^ 61 - 2], (absorbing n).mode = .absorb ∧ (absorbing n).len ≠ 0xFFFFFFFFFFFFFFF8) ∧
    (absorbing 63).len.toNat / 8 % 64 = 63 ∧ (absorbing 62).len.toNat / 8 % 64 ≠ 63 := by decide

theorem test_witness_UpdateRaisesInputTooLarge :
    (absorbing (2 ^ 61 - 1)).mode = .absorb ∧ (absorbing (2 ^ 61 - 1)).len = 0xFFFFFFFFFFFFFFF8 := by decide

/-- Fill 0, 55, 56 and 63. -/
theorem test_witness_FinalPadsTheBlock :
    ∀ n ∈ [0, 55, 56, 63], (absorbing n).mode = .absorb ∧ (absorbing n).len.toNat / 8 % 64 = n := by decide

theorem test_witness_RddigestReadsTheByte : (quiet .done).mode = .done := by decide

theorem test_witness_WrongModeRaisesSequenceError :
    (quiet .idle).mode = .idle ∧ (quiet .absorb).mode = .absorb ∧ (quiet .done).mode = .done ∧
    (quiet .error).mode = .error := by decide

theorem test_witness_IllegalWordsRaiseIllegalCommand :
    (∀ i ∈ [Instr.reserved6 0xFF, .reservedF 0xFF, .rddigestIllegal001 0xFF],
      i ∈ [Instr.reserved6 0xFF, .reserved7 0xFF, .reserved8 0xFF, .reserved9 0xFF, .reservedA 0xFF, .reservedB 0xFF,
        .reservedC 0xFF, .reservedD 0xFF, .reservedE 0xFF, .reservedF 0xFF,
        .rddigestIllegal1xx 0xFF, .rddigestIllegal01x 0xFF, .rddigestIllegal001 0xFF]) ∧
    (∀ m ∈ [Mode.idle, .absorb, .done, .error], (quiet m).mode ≠ .busy) ∧ (busy .load .done 0).mode = .busy ∧
    6 ≤ ((0x600#12).extractLsb' 8 4).toNat ∧ 6 ≤ ((0xFFF#12).extractLsb' 8 4).toNat ∧
    (0x420#12).extractLsb' 8 4 = 0x4#4 ∧ (0x420#12).extractLsb' 5 3 ≠ 0 := by decide

/-- The two operand bytes beside the boundary, in a mode where `RDDIGEST` is not allowed. -/
theorem test_witness_IllegalCommandComesFirst :
    (quiet .idle).mode ≠ .busy ∧ (quiet .idle).mode ≠ .done ∧
    (0x20#8).extractLsb' 5 3 ≠ 0 ∧ (0x1F#8).extractLsb' 5 3 = 0 := by decide

theorem test_witness_BusyHoldsCommands :
    (busy .fold .done 0).cmdReady 0x400 = false ∧ (busy .fold .done 0).cmdReady 0x0FF = true := by decide

theorem test_witness_LoadTakesTheBlock :
    (busy .load .done 0).mode = .busy ∧ (busy .load .done 0).phase = .load ∧ (busy .load .done 0).t = 0 := by decide

/-- Indices 0, 15, 16 and 63. -/
theorem test_witness_RoundComputesOneRound :
    ∀ u ∈ [0#6, 15#6, 16#6, 63#6],
      (busy .round .done u).mode = .busy ∧ (busy .round .done u).phase = .round ∧ (busy .round .done u).t = u := by decide

theorem test_witness_FoldAddsAndMovesOn :
    ∀ n ∈ [Next.none, .absorb, .pad2, .done],
      (busy .fold n 0).mode = .busy ∧ (busy .fold n 0).phase = .fold ∧ (busy .fold n 0).t = 0 ∧
      (busy .fold n 0).next = n := by decide

theorem test_witness_Pad2BuildsTheLengthBlock :
    (busy .pad2 .pad2 0).mode = .busy ∧ (busy .pad2 .pad2 0).phase = .pad2 ∧ (busy .pad2 .pad2 0).t = 0 := by decide

theorem test_witness_FrameOfContextCommands :
    (∃ t, exec (.update 0x61) (absorbing 63) = .next t) ∧ (∃ t, exec (.update 0x61) (absorbing (2 ^ 61 - 1)) = .next t) ∧
    (∃ t, exec (.update 0x61) (quiet .done) = .next t) ∧ (∃ t, exec (.final 0) (absorbing 63) = .next t) ∧
    (∃ t, exec (.final 0) (quiet .error) = .next t) ∧ (∃ t, exec (.init 0) (quiet .idle) = .next t) :=
  ⟨⟨_, rfl⟩, ⟨_, rfl⟩, ⟨_, rfl⟩, ⟨_, rfl⟩, ⟨_, rfl⟩, ⟨_, rfl⟩⟩

theorem test_witness_FrameOfOtherCommands :
    (∃ t, exec (.nop 0) (quiet .idle) = .next t) ∧ (∃ t, exec (.rdstat 0) (quiet .busy) = .next t) ∧
    (∃ t, exec (.rddigest 31) (quiet .done) = .next t) ∧ (∃ t, exec (.rddigest 31) (quiet .idle) = .next t) ∧
    (∃ t, exec (.reserved6 0) (quiet .absorb) = .next t) ∧
    (∃ t, exec (.rddigestIllegal1xx 0x80) (quiet .done) = .next t) :=
  ⟨⟨_, rfl⟩, ⟨_, rfl⟩, ⟨_, rfl⟩, ⟨_, rfl⟩, ⟨_, rfl⟩, ⟨_, rfl⟩⟩

theorem test_witness_FrameOfMicroOperations :
    (∃ t, exec .load (busy .load .done 0) = .next t) ∧ (∃ t, exec (.round 15) (busy .round .done 15) = .next t) ∧
    (∃ t, exec (.round 63) (busy .round .done 63) = .next t) ∧ (∃ t, exec .fold (busy .fold .done 0) = .next t) ∧
    (∃ t, exec .pad2 (busy .pad2 .pad2 0) = .next t) :=
  ⟨⟨_, rfl⟩, ⟨_, rfl⟩, ⟨_, rfl⟩, ⟨_, rfl⟩, ⟨_, rfl⟩⟩

/-- `FOLD` leaves `BUSY`; `INIT` writes `H`. -/
theorem test_witness_RegistersChangeOnlyByTheirOwners :
    after (exec .fold (busy .fold .done 0)) State.mode = some .done ∧
    after (exec (.init 0) { quiet .done with h := Vector.replicate 8 0 }) State.h = some Config.IV := by decide

theorem test_witness_SequencerAdvancesAsTabulated :
    (absorbing 63).Legal = true ∧ after (exec (.update 0x61) (absorbing 63)) State.mode = some .busy ∧
    (busy .load .done 0).Legal = true ∧ after (exec .load (busy .load .done 0)) State.phase = some .round ∧
    (busy .round .done 63).Legal = true ∧ after (exec (.round 63) (busy .round .done 63)) State.t = some 0 ∧
    (busy .fold .pad2 0).Legal = true ∧ after (exec .fold (busy .fold .pad2 0)) State.phase = some .pad2 ∧
    (busy .pad2 .pad2 0).Legal = true ∧ after (exec .pad2 (busy .pad2 .pad2 0)) State.phase = some .load := by decide

/-- `FINAL` in `ABSORB`, also at the largest length, starts the sequencer. -/
theorem test_witness_SequencerAdvancesAsTabulated_final :
    ∀ n ∈ [0, 55, 56, 2 ^ 61 - 1], (absorbing n).Legal = true ∧ (absorbing n).mode = .absorb ∧
      after (exec (.final 0) (absorbing n)) (fun t => (t.phase, t.t, t.mode)) = some (.load, 0, .busy) := by decide

/-- `UPDATE` at `fill = 63`: one block below the largest length it starts the sequencer; at `LEN = 2^64 - 8`, which the
statement excludes, it is InputTooLarge and the sequencer stays. -/
theorem test_witness_SequencerAdvancesAsTabulated_update :
    (absorbing (2 ^ 61 - 65)).Legal = true ∧ (absorbing (2 ^ 61 - 65)).len.toNat / 8 % 64 = 63 ∧
    (absorbing (2 ^ 61 - 65)).len ≠ 0xFFFFFFFFFFFFFFF8 ∧
    after (exec (.update 0x61) (absorbing (2 ^ 61 - 65))) (fun t => (t.phase, t.t, t.mode)) = some (.load, 0, .busy) ∧
    (absorbing (2 ^ 61 - 1)).Legal = true ∧ (absorbing (2 ^ 61 - 1)).len = 0xFFFFFFFFFFFFFFF8 ∧
    after (exec (.update 0x61) (absorbing (2 ^ 61 - 1))) (fun t => (t.phase, t.t, t.mode)) = some (.idle, 0, .error) := by
  decide

/-- Each flag set by its exception, and cleared by an accepted `INIT`. -/
theorem test_witness_ErrorFlagsAreSticky :
    after (exec (.update 0xbb) (absorbing (2 ^ 61 - 1))) State.errTooLarge = some true ∧
    after (exec (.final 0) (quiet .idle)) State.errSeq = some true ∧
    after (exec (.reservedF 0) (quiet .idle)) State.errIll = some true ∧
    after (step { quiet .error with inputs := [.command 0x100] }) State.errTooLarge = some false := by decide

theorem test_witness_ResponsesDoNotLeak :
    (Instr.rddigest 5).isCommand = true ∧ (∃ t, exec (.rddigest 5) (quiet .done) = .next t) ∧
    (quiet .done).h = ({ quiet .done with blk := abcBlock } : State).h ∧
    ∃ t, exec (.rddigest 5) { quiet .done with blk := abcBlock } = .next t :=
  ⟨rfl, ⟨_, rfl⟩, rfl, ⟨_, rfl⟩⟩

theorem test_witness_NoPartialDigest :
    after (exec (.rddigest 0) (quiet .done)) State.rsp = some (some 0x6a) ∧ (quiet .done).rsp = none := by decide

/-- A waiting, a commanded and a busy state step. -/
theorem test_witness_StepKeepsLegal :
    (quiet .idle).Legal = true ∧ (∃ t, step (quiet .idle) = .next t) ∧
    (busy .fold .done 0).Legal = true ∧ ∃ t, step (busy .fold .done 0) = .next t :=
  ⟨rfl, ⟨_, rfl⟩, rfl, ⟨_, rfl⟩⟩

theorem test_witness_StepKeepsChained :
    (absorbing 0).Legal = true ∧ (absorbing 0).Chained ∧ ∃ t, step (absorbing 0) = .next t :=
  ⟨rfl, rfl, ⟨_, rfl⟩⟩

/-- In the rounds of the first Block, before the last round. -/
theorem test_witness_StepKeepsChained_inRounds :
    ∃ s : State, s.Legal = true ∧ s.mode = .busy ∧ s.phase = .round ∧ s.Chained :=
  ⟨{ busy .round .done 63 with
      w := expand abcBlock, blk := abcBlock, blkTrace := [abcBlock]
      r := roundsUpTo (expand abcBlock) Config.IV 63 },
    rfl, rfl, rfl, [], rfl, rfl, rfl, fun _ _ => rfl⟩

theorem test_witness_StepKeepsPadded :
    (absorbing 63).Legal = true ∧ (absorbing 63).Padded ∧
    ∃ t, step { absorbing 63 with inputs := [.command 0x261] } = .next t :=
  ⟨rfl, rfl, ⟨_, rfl⟩⟩

/-- The last Block of the message "abc" is about to be handed over. -/
theorem test_witness_StepKeepsPadded_lastBlock :
    ∃ s : State, s.Legal = true ∧ s.mode = .busy ∧ s.next = .done ∧ s.phase = .load ∧ s.Padded :=
  ⟨{ busy .load .done 0 with blk := abcBlock, lenHi := 3 }, rfl, rfl, rfl, rfl, [0x61, 0x62, 0x63], rfl, rfl⟩

theorem test_witness_OneBlockIsCompress :
    ∀ n ∈ [Next.absorb, .pad2, .done], (busy .load n 0).Legal = true ∧ (busy .load n 0).phase = .load ∧
      (busy .load n 0).inputs = [] := by decide

/-- The 64th byte, and `FINAL` with one block and with two. -/
theorem test_witness_BusyEndsWithin133Steps :
    (∀ n ∈ [55, 56, 63], (absorbing n).Legal = true ∧ (absorbing n).inputs = [] ∧ (absorbing n).mode = .absorb) ∧
    after (exec (.update 0x61) (absorbing 63)) State.mode = some .busy ∧
    (absorbing 55).len.toNat / 8 % 64 ≤ 55 ∧ ¬ (absorbing 56).len.toNat / 8 % 64 ≤ 55 := by decide

/-- The message "a", from `ERROR`, with a pause, a `NOP` and an `RDSTAT` in between. -/
theorem test_witness_MachineHashesEveryMessage :
    [(0x61 : Byte)].length < 2 ^ 61 ∧ (quiet .error).Legal = true ∧ (quiet .error).mode ≠ .busy ∧
    ([.command 0x100, .pause, .command 0x261, .command 0x000, .command 0x300, .tryCommand 0x500].filter
      fun x => !x.transparent) = hashInputs [0x61] := by decide

theorem test_witness_OversizeMessageEndsInError :
    ∃ (m : List Byte) (s : State), 2 ^ 61 ≤ m.length ∧ s.Legal = true ∧ s.mode ≠ .busy ∧
      (s.inputs.filter fun x => !x.transparent) = hashInputs m := by
  refine ⟨List.replicate (2 ^ 61) 0x00, { quiet .idle with inputs := hashInputs (List.replicate (2 ^ 61) 0x00) },
    by simp only [List.length_replicate]; exact Nat.le_refl _, rfl, nofun, ?_⟩
  refine List.filter_eq_self.mpr fun x hx => ?_
  simp only [hashInputs, updatesInputs, List.mem_append, List.mem_flatMap, List.mem_replicate] at hx
  obtain (hx | ⟨b, ⟨-, rfl⟩, hx⟩) | hx := hx <;> (revert x; decide)

/-- Two states after reset that differ in `BLK`, `LEN` and `H`. -/
theorem test_witness_UnspecifiedValuesAreNeverSeen :
    (quiet .idle).Legal = true ∧ (quiet .idle).mode = .idle ∧
    SameButUnspecified (quiet .idle) { quiet .idle with blk := abcBlock, lenHi := 7, h := Vector.replicate 8 1 } ∧
    ∃ t, core.run 1 (quiet .idle) = .next t :=
  ⟨rfl, rfl, rfl, ⟨_, rfl⟩⟩

end Sys2Proof.Tests
end

section
/-! PROOF. What every instruction and every step can do, as one inductive predicate, and the rules of the state (R10, R13 to
R31) derived from it. -/

namespace Sys2Proof.Machine

/-! ## What an instruction can do -/

/-- The thirteen instructions that are no legal command: the ten reserved opcodes and the three illegal operand rows (R68). -/
def illegalRows (data : Byte) : List Instr :=
  [.reserved6 data, .reserved7 data, .reserved8 data, .reserved9 data, .reservedA data, .reservedB data,
   .reservedC data, .reservedD data, .reservedE data, .reservedF data,
   .rddigestIllegal1xx data, .rddigestIllegal01x data, .rddigestIllegal001 data]

/-- Everything instruction `i` can do in state `s` when it answers the next state `t`; `exec_effect` ties it to `exec`. -/
inductive Effect : Instr → State → State → Prop
  /-- The hold of R150 item 1. -/
  | held {i s} (hi : i.isCommand = true) (hm : s.mode = .busy) : Effect i s s
  /-- `NOP` (R151). -/
  | nop {s} (data : Byte) : Effect (.nop data) s (s.respond 0)
  /-- `RDSTAT` (R156). -/
  | rdstat {s} (data : Byte) : Effect (.rdstat data) s (s.respond s.status)
  /-- An accepted `RDDIGEST` (R155). -/
  | rddigest {s} (k : BitVec 5) (hm : s.mode = .done) : Effect (.rddigest k) s (s.respond (digestByte s.h k))
  /-- `UPDATE` in a mode that does not allow it (R172). -/
  | updateRefused {s} (b : Byte) (hb : s.mode ≠ .busy) (hm : s.mode ≠ .absorb) :
      Effect (.update b) s (s.raise .sequenceError)
  /-- `FINAL` in a mode that does not allow it (R172). -/
  | finalRefused {s} (data : Byte) (hb : s.mode ≠ .busy) (hm : s.mode ≠ .absorb) :
      Effect (.final data) s (s.raise .sequenceError)
  /-- `RDDIGEST` in a mode that does not allow it (R172). -/
  | rddigestRefused {s} (k : BitVec 5) (hb : s.mode ≠ .busy) (hm : s.mode ≠ .done) :
      Effect (.rddigest k) s (s.raise .sequenceError)
  /-- A word that is no command (R173). -/
  | illegal {i s} (data : Byte) (hm : s.mode ≠ .busy) (hi : i ∈ illegalRows data) : Effect i s (s.raise .illegalCommand)
  /-- An accepted `INIT` (R152). -/
  | starts {s} (data : Byte) (hm : s.mode ≠ .busy) : Effect (.init data) s s.initContext
  /-- The byte that would make `L = 2^64` (R171). -/
  | tooLarge {s} (b : Byte) (hm : s.mode = .absorb) (hl : s.len = maxLen) :
      Effect (.update b) s (s.raise .inputTooLarge)
  /-- A byte that leaves room in the block (R101). -/
  | stores {s} (b : Byte) (hm : s.mode = .absorb) (hl : s.len ≠ maxLen) (hf : s.fill ≠ 63) :
      Effect (.update b) s ((s.absorbByte b).respond 0)
  /-- The byte that fills the block (R101). -/
  | fills {s} (b : Byte) (hm : s.mode = .absorb) (hl : s.len ≠ maxLen) (hf : s.fill = 63) :
      Effect (.update b) s ((s.absorbByte b).respond 0)
  /-- An accepted `FINAL` (R103). -/
  | finalises {s} (data : Byte) (hm : s.mode = .absorb) : Effect (.final data) s (s.finalise.respond 0)
  /-- `LOAD` (R123). -/
  | loads {s} (hm : s.mode = .busy) (hp : s.phase = .load) (ht : s.t = 0) :
      Effect .load s { s with
        blkTrace := s.blkTrace ++ [s.blk], w := loadWords s.blk s.w, r := s.h, t := 0, phase := .round }
  /-- `ROUND` of an index below 63 (R135). -/
  | rounds {s} (u : BitVec 6) (hm : s.mode = .busy) (hp : s.phase = .round) (ht : s.t = u) (hu : u ≠ 63) :
      Effect (.round u) s { s with
        w := scheduleStep s.w u.toNat u.isLt
        r := roundOnce s.r (Config.K[u.toNat]'u.isLt) ((scheduleStep s.w u.toNat u.isLt)[u.toNat]'u.isLt)
        t := u + 1
        phase := .round }
  /-- `ROUND` of index 63 (R135). -/
  | lastRound {s} (u : BitVec 6) (hm : s.mode = .busy) (hp : s.phase = .round) (ht : s.t = u) (hu : u = 63) :
      Effect (.round u) s { s with
        w := scheduleStep s.w u.toNat u.isLt
        r := roundOnce s.r (Config.K[u.toNat]'u.isLt) ((scheduleStep s.w u.toNat u.isLt)[u.toNat]'u.isLt)
        t := 0
        phase := .fold }
  /-- `FOLD` of a full message block (R137). -/
  | foldsToAbsorb {s} (hm : s.mode = .busy) (hp : s.phase = .fold) (ht : s.t = 0) (hn : s.next = .absorb) :
      Effect .fold s { s with h := foldInto s.h s.r, phase := .idle, next := .none, mode := .absorb }
  /-- `FOLD` of the last block (R137). -/
  | foldsToDone {s} (hm : s.mode = .busy) (hp : s.phase = .fold) (ht : s.t = 0) (hn : s.next = .done) :
      Effect .fold s { s with h := foldInto s.h s.r, phase := .idle, next := .none, mode := .done }
  /-- `FOLD` of the first of two final blocks (R137). -/
  | foldsToPad2 {s} (hm : s.mode = .busy) (hp : s.phase = .fold) (ht : s.t = 0) (hn : s.next = .pad2) :
      Effect .fold s { s with h := foldInto s.h s.r, phase := .pad2 }
  /-- `PAD2` (R107). -/
  | pads {s} (hm : s.mode = .busy) (hp : s.phase = .pad2) (ht : s.t = 0) :
      Effect .pad2 s { s with blk := lengthBlock s.len, next := .done, phase := .load }

/-- An illegal word is held or raises IllegalCommand (R157). -/
theorem illegal_effect {i : Instr} {s t : State} {data : Byte} (hi : i ∈ illegalRows data)
    (hc : i.isCommand = true) (h : illegalCommand s = .next t) : Effect i s t := by
  obtain ⟨hm, rfl⟩ | ⟨hm, rfl⟩ := illegalCommand_next h
  · exact .held hc hm
  · exact .illegal data hm hi

/-- What `exec` does is one of the listed effects. -/
theorem exec_effect {i : Instr} {s t : State} (h : exec i s = .next t) : Effect i s t := by
  cases i with
  | nop data =>
    cases h
    exact .nop data
  | rdstat data =>
    cases h
    exact .rdstat data
  | init data =>
    obtain ⟨hm, rfl⟩ | ⟨hm, rfl⟩ := execInit_next h
    · exact .held rfl hm
    · exact .starts data hm
  | update b =>
    obtain ⟨hm, rfl⟩ | ⟨hb, hm, rfl⟩ | ⟨hm, hl, rfl⟩ | ⟨hm, hl, rfl⟩ := execUpdate_next h
    · exact .held rfl hm
    · exact .updateRefused b hb hm
    · exact .tooLarge b hm hl
    · by_cases hf : s.fill = 63
      · exact .fills b hm hl hf
      · exact .stores b hm hl hf
  | final data =>
    obtain ⟨hm, rfl⟩ | ⟨hb, hm, rfl⟩ | ⟨hm, rfl⟩ := execFinal_next h
    · exact .held rfl hm
    · exact .finalRefused data hb hm
    · exact .finalises data hm
  | rddigest k =>
    obtain ⟨hm, rfl⟩ | ⟨hb, hm, rfl⟩ | ⟨hm, rfl⟩ := execRddigest_next h
    · exact .held rfl hm
    · exact .rddigestRefused k hb hm
    · exact .rddigest k hm
  | load =>
    obtain ⟨⟨hm, hp, ht⟩, rfl⟩ := execLoad_next h
    exact .loads hm hp ht
  | round u =>
    obtain ⟨⟨hm, hp, ht⟩, rfl⟩ := execRound_next h
    by_cases hu : u = 63
    · rw [if_pos hu, if_pos hu]
      exact .lastRound u hm hp ht hu
    · rw [if_neg hu, if_neg hu]
      exact .rounds u hm hp ht hu
  | fold =>
    obtain ⟨⟨hm, hp, ht⟩, ⟨hn, rfl⟩ | ⟨hn, rfl⟩ | ⟨hn, rfl⟩⟩ := execFold_next h
    · exact .foldsToAbsorb hm hp ht hn
    · exact .foldsToDone hm hp ht hn
    · exact .foldsToPad2 hm hp ht hn
  | pad2 =>
    obtain ⟨⟨hm, hp, ht⟩, rfl⟩ := execPad2_next h
    exact .pads hm hp ht
  | reserved6 data | reserved7 data | reserved8 data | reserved9 data | reservedA data | reservedB data
  | reservedC data | reservedD data | reservedE data | reservedF data | rddigestIllegal1xx data
  | rddigestIllegal01x data | rddigestIllegal001 data =>
    exact illegal_effect (data := data) (by simp [illegalRows]) rfl h

/-- A predicate that every reset establishes, that taking an input keeps and that every instruction keeps in a legal state,
is kept by every step (R47). -/
theorem step_keeps {P : State → Prop} (hreset : ∀ n inputs, P (State.atReset n inputs))
    (hbegin : ∀ s, P s → P s.beginTurn)
    (hexec : ∀ {i s t}, s.Legal = true → P s → Effect i s t → P t)
    {s t : State} (hs : P s) (h : step s = .next t) : P t := by
  obtain ⟨-, rfl⟩ | ⟨hl, w, -, -, -, h⟩ | ⟨hl, -, i, -, h⟩ | ⟨-, -, rfl⟩ := step_cases h
  · exact hreset _ _
  · exact hexec (s := s.beginTurn) hl (hbegin s hs) (exec_effect h)
  · exact hexec (s := s.beginTurn) hl (hbegin s hs) (exec_effect h)
  · exact hbegin s hs

/-! ## The control invariants (R31 (1) to (5)) -/

/-- What a legal state satisfies while the core is busy (R31 (2), (3), (5)). -/
theorem State.legal_iff_of_busy {s : State} (hm : s.mode = .busy) :
    s.Legal = true ↔
      s.phase ≠ .idle ∧ s.next ≠ .none ∧ (s.phase ≠ .round → s.t = 0) ∧ s.errTooLarge = false := by
  simp [State.legal_iff, hm]

/-- What a legal state satisfies while the core is not busy: the sequencer and `NEXT` are clear (R31 (2), (3), (5)). -/
theorem State.legal_iff_of_not_busy {s : State} (hm : s.mode ≠ .busy) :
    s.Legal = true ↔
      s.phase = .idle ∧ s.next = .none ∧ s.t = 0 ∧ (s.mode = .error ↔ s.errTooLarge = true) := by
  rw [State.legal_iff]
  simp only [hm, false_iff, ne_eq, not_not]
  refine and_congr_right fun hp => ?_
  simp [hp]

/-- In a legal state of `ABSORB` the sequencer is at rest and `ERR_TOO_LARGE` is clear. -/
theorem State.legal_absorb {s : State} (hl : s.Legal = true) (hm : s.mode = .absorb) :
    s.phase = .idle ∧ s.next = .none ∧ s.t = 0 ∧ s.errTooLarge = false := by
  obtain ⟨hp, hn, ht, he⟩ := (State.legal_iff_of_not_busy (by simp [hm])).mp hl
  exact ⟨hp, hn, ht, by simpa [hm] using he⟩

/-- `FINAL` asks for a second block or for none, never for nothing (R103). -/
theorem State.finalise_next (s : State) : s.finalise.next = if s.fill.toNat ≤ 55 then .done else .pad2 := by
  unfold State.finalise
  split <;> rfl

/-- Every instruction keeps the control invariants (R31 (1) to (5)). -/
theorem Effect.keeps_legal {i : Instr} {s t : State} (hl : s.Legal = true) (h : Effect i s t) : t.Legal = true := by
  cases h with
  | held | nop | rdstat | rddigest | updateRefused | finalRefused | rddigestRefused | illegal => exact hl
  | starts data hm =>
    obtain ⟨hp, hn, ht, -⟩ := (State.legal_iff_of_not_busy hm).mp hl
    exact (State.legal_iff_of_not_busy (by simp)).mpr ⟨hp, hn, ht, by simp⟩
  | tooLarge b hm =>
    obtain ⟨hp, hn, ht, -⟩ := State.legal_absorb hl hm
    exact (State.legal_iff_of_not_busy (by simp)).mpr ⟨hp, hn, ht, by simp⟩
  | stores b _ _ hf =>
    rw [State.absorbByte_of_not_full hf, State.legal_iff]
    exact s.legal_iff.mp hl
  | fills b hm _ hf =>
    obtain ⟨-, -, ht, he⟩ := State.legal_absorb hl hm
    rw [State.absorbByte_of_full hf]
    exact (State.legal_iff_of_busy rfl).mpr ⟨by simp, by simp, fun _ => ht, he⟩
  | finalises data hm =>
    obtain ⟨-, -, ht, he⟩ := State.legal_absorb hl hm
    refine (State.legal_iff_of_busy (by simp)).mpr ⟨by simp, ?_, fun _ => by simpa using ht, by simpa using he⟩
    rw [State.respond_next, State.finalise_next]
    split <;> simp
  | loads hm | lastRound _ hm =>
    obtain ⟨-, hn, -, he⟩ := (State.legal_iff_of_busy hm).mp hl
    exact (State.legal_iff_of_busy (by exact hm)).mpr ⟨by simp, hn, fun _ => rfl, he⟩
  | rounds u hm =>
    obtain ⟨-, hn, -, he⟩ := (State.legal_iff_of_busy hm).mp hl
    exact (State.legal_iff_of_busy (by exact hm)).mpr ⟨by simp, hn, by simp, he⟩
  | foldsToAbsorb hm _ ht | foldsToDone hm _ ht =>
    obtain ⟨-, -, -, he⟩ := (State.legal_iff_of_busy hm).mp hl
    exact (State.legal_iff_of_not_busy (by simp)).mpr ⟨rfl, rfl, ht, by simp [he]⟩
  | foldsToPad2 hm _ ht =>
    obtain ⟨-, hn, -, he⟩ := (State.legal_iff_of_busy hm).mp hl
    exact (State.legal_iff_of_busy (by exact hm)).mpr ⟨by simp, hn, fun _ => ht, he⟩
  | pads hm _ ht =>
    obtain ⟨-, -, -, he⟩ := (State.legal_iff_of_busy hm).mp hl
    exact (State.legal_iff_of_busy (by exact hm)).mpr ⟨by simp, by simp, fun _ => ht, he⟩

/-- Settles O50: reset establishes the control invariants, and every effect of an instruction keeps them. -/
theorem stepKeepsLegal : Obligations.StepKeepsLegal := by
  intro s t hl h
  exact step_keeps (P := fun s => s.Legal = true) (fun _ _ => rfl) (fun _ hs => hs)
    (fun hl _ he => he.keeps_legal hl) hl h

/-! ## The chaining invariant (R138) -/

/-- The recurrence of R122 reads only words below `n`. -/
theorem scheduleWord_congr {w w' : ScheduleWords} {n : Nat} (hn : n < 64) (h16 : 16 ≤ n)
    (h : ∀ (j : Nat) (hj : j < 64), j < n → w[j] = w'[j]) : scheduleWord w n hn = scheduleWord w' n hn := by
  unfold scheduleWord
  rw [h (n - 16) (by omega) (by omega), h (n - 15) (by omega) (by omega), h (n - 7) (by omega) (by omega),
    h (n - 2) (by omega) (by omega)]

/-- The first sixteen schedule words are the Block's (R121). -/
theorem expand_getElem_of_lt (blk : Block) {n : Nat} (hn : n < 16) :
    (expand blk)[n]'(by omega) = blockWord blk n := by
  unfold expand
  rw [scheduleUpTo_getElem_stable _ 0 n (by omega) (.inl hn) 64 (by omega), scheduleUpTo_zero, loadWords_getElem,
    if_pos hn]

/-- The other schedule words follow the recurrence (R122). -/
theorem expand_getElem_of_le (blk : Block) {n : Nat} (h16 : 16 ≤ n) (hn : n < 64) :
    (expand blk)[n] = scheduleWord (expand blk) n hn := by
  unfold expand
  rw [scheduleUpTo_getElem_stable _ (n + 1) n hn (.inr (by omega)) 64 (by omega), scheduleUpTo_succ _ n hn,
    scheduleStep_getElem_self _ n hn h16]
  exact scheduleWord_congr hn h16 fun j hj hjn =>
    (scheduleUpTo_getElem_stable _ n j hj (.inr hjn) 64 (by omega)).symm

/-- The schedule file holds the first sixteen schedule words of the Block and all those below `n` (R123, R124). -/
def Scheduled (blk : Block) (w : ScheduleWords) (n : Nat) : Prop :=
  ∀ i : Fin 64, i.val < 16 ∨ i.val < n → w[i] = (expand blk)[i]

/-- After `LOAD` the schedule file is ready for round 0 (R121, R123). -/
theorem scheduled_loadWords (blk : Block) (w : ScheduleWords) : Scheduled blk (loadWords blk w) 0 := by
  intro i hi
  have h16 : i.val < 16 := by omega
  exact (loadWords_getElem blk w i.val i.isLt).trans
    ((if_pos h16).trans (expand_getElem_of_lt blk h16).symm)

/-- The schedule step of index `n` makes the schedule file ready for round `n + 1` (R124, R126). -/
theorem Scheduled.step {blk : Block} {w : ScheduleWords} {n : Nat} (hn : n < 64) (h : Scheduled blk w n) :
    Scheduled blk (scheduleStep w n hn) (n + 1) := by
  intro i hi
  by_cases hnew : i.val = n ∧ 16 ≤ n
  · obtain ⟨rfl, h16⟩ := hnew
    calc (scheduleStep w i.val hn)[i] = scheduleWord w i.val hn := scheduleStep_getElem_self w i.val hn h16
      _ = scheduleWord (expand blk) i.val hn := scheduleWord_congr hn h16 fun j hj hji => h ⟨j, hj⟩ (.inr hji)
      _ = (expand blk)[i] := (expand_getElem_of_le blk h16 hn).symm
  · exact (scheduleStep_getElem_of_ne w n hn i.val i.isLt (by omega)).trans (h i (by omega))

/-- `LOAD` starts the rounds of the Block in `BLK` on the chained state (R123, R140). -/
theorem State.inRounds_of_load {s t : State} (hchain : s.h = chain s.blkTrace)
    (htrace : t.blkTrace = s.blkTrace ++ [s.blk]) (hblk : t.blk = s.blk) (hh : t.h = s.h)
    (hw : t.w = loadWords s.blk s.w) (hr : t.r = s.h) : t.InRounds 0 := by
  refine ⟨s.blkTrace, by rw [htrace, hblk], by rw [hh, hchain], by rw [hr, hh, roundsUpTo_zero], ?_⟩
  rw [hblk, hw]
  exact scheduled_loadWords s.blk s.w

/-- `ROUND` of index `n` goes from before round `n` to before round `n + 1` (R135, R140). -/
theorem State.inRounds_of_round {s t : State} {n k : Nat} (hn : n < 64) (hk : k = n + 1) (h : s.InRounds n)
    (htrace : t.blkTrace = s.blkTrace) (hblk : t.blk = s.blk) (hh : t.h = s.h)
    (hw : t.w = scheduleStep s.w n hn) (hr : t.r = roundOnce s.r Config.K[n] (scheduleStep s.w n hn)[n]) :
    t.InRounds k := by
  subst hk
  obtain ⟨before, hb, hchain, hrounds, hsched⟩ := h
  have hsched' : Scheduled s.blk (scheduleStep s.w n hn) (n + 1) := Scheduled.step hn hsched
  have hword : (scheduleStep s.w n hn)[n] = (expand s.blk)[n] := hsched' ⟨n, hn⟩ (.inr (Nat.lt_succ_self n))
  refine ⟨before, by rw [htrace, hblk, hb], by rw [hh, hchain], ?_, by rw [hblk, hw]; exact hsched'⟩
  rw [hr, hword, hrounds, hblk, hh, roundsUpTo_succ _ _ n hn]

/-- After 64 rounds the fold makes `H` the chained state of the whole record (R136, R138). -/
theorem State.InRounds.fold_eq_chain {s : State} (h : s.InRounds 64) : foldInto s.h s.r = chain s.blkTrace := by
  obtain ⟨before, hb, hchain, hrounds, -⟩ := h
  rw [hrounds, hb, chain_append, ← hchain]
  unfold compress
  rfl

/-- In `ABSORB` and `DONE`, and in `BUSY` outside the rounds, `State.Chained` says that `H` is the chained state of the
record. -/
theorem State.chained_iff_of_between {s : State}
    (h : s.mode = .absorb ∨ s.mode = .done ∨ s.mode = .busy ∧ (s.phase = .load ∨ s.phase = .pad2)) :
    s.Chained ↔ s.h = chain s.blkTrace := by
  obtain hm | hm | ⟨hm, hp | hp⟩ := h
  · simp only [State.Chained, hm]
  · simp only [State.Chained, hm]
  · simp only [State.Chained, hm, hp]
  · simp only [State.Chained, hm, hp]

/-- Inside the rounds `State.Chained` says how far they are. -/
theorem State.chained_iff_of_round {s : State} (hm : s.mode = .busy) (hp : s.phase = .round) :
    s.Chained ↔ s.InRounds s.t.toNat := by
  simp only [State.Chained, hm, hp]

/-- Before the fold `State.Chained` says that all 64 rounds are done. -/
theorem State.chained_iff_of_fold {s : State} (hm : s.mode = .busy) (hp : s.phase = .fold) :
    s.Chained ↔ s.InRounds 64 := by
  simp only [State.Chained, hm, hp]

/-- Every instruction keeps the chaining invariant (R138, R140). -/
theorem Effect.keeps_chained {i : Instr} {s t : State} (hc : s.Chained) (h : Effect i s t) : t.Chained := by
  cases h with
  | held | nop | rdstat | rddigest | updateRefused | finalRefused | rddigestRefused | illegal => exact hc
  | starts => exact (State.chained_iff_of_between (.inl rfl)).mpr rfl
  | tooLarge => exact trivial
  | stores b hm _ hf =>
    rw [State.chained_iff_of_between (.inl hm)] at hc
    rw [State.absorbByte_of_not_full hf]
    exact (State.chained_iff_of_between (.inl (by exact hm))).mpr hc
  | fills b hm _ hf =>
    rw [State.chained_iff_of_between (.inl hm)] at hc
    rw [State.absorbByte_of_full hf]
    exact (State.chained_iff_of_between (.inr (.inr ⟨rfl, .inl rfl⟩))).mpr hc
  | finalises data hm =>
    rw [State.chained_iff_of_between (.inl hm)] at hc
    exact (State.chained_iff_of_between (by simp)).mpr (by simpa using hc)
  | loads hm hp =>
    rw [State.chained_iff_of_between (.inr (.inr ⟨hm, .inl hp⟩))] at hc
    exact (State.chained_iff_of_round (by exact hm) rfl).mpr (State.inRounds_of_load hc rfl rfl rfl rfl rfl)
  | rounds u hm hp ht hu =>
    rw [State.chained_iff_of_round hm hp, ht] at hc
    have hsucc : (u + 1).toNat = u.toNat + 1 := by bv_omega
    exact (State.chained_iff_of_round (by exact hm) rfl).mpr
      (State.inRounds_of_round u.isLt hsucc hc rfl rfl rfl rfl rfl)
  | lastRound u hm hp ht hu =>
    rw [State.chained_iff_of_round hm hp, ht] at hc
    have h64 : 64 = u.toNat + 1 := by rw [hu]; rfl
    exact (State.chained_iff_of_fold (by exact hm) rfl).mpr
      (State.inRounds_of_round u.isLt h64 hc rfl rfl rfl rfl rfl)
  | foldsToAbsorb hm hp =>
    rw [State.chained_iff_of_fold hm hp] at hc
    exact (State.chained_iff_of_between (.inl rfl)).mpr hc.fold_eq_chain
  | foldsToDone hm hp =>
    rw [State.chained_iff_of_fold hm hp] at hc
    exact (State.chained_iff_of_between (.inr (.inl rfl))).mpr hc.fold_eq_chain
  | foldsToPad2 hm hp =>
    rw [State.chained_iff_of_fold hm hp] at hc
    exact (State.chained_iff_of_between (.inr (.inr ⟨by exact hm, .inr rfl⟩))).mpr hc.fold_eq_chain
  | pads hm hp =>
    rw [State.chained_iff_of_between (.inr (.inr ⟨hm, .inr hp⟩))] at hc
    exact (State.chained_iff_of_between (.inr (.inr ⟨by exact hm, .inl rfl⟩))).mpr hc

/-- Settles O51: a reset leaves `IDLE`, where nothing is claimed, and every effect of an instruction keeps the chaining
invariant. -/
theorem stepKeepsChained : Obligations.StepKeepsChained := by
  intro s t _ hc h
  exact step_keeps (P := State.Chained) (fun _ _ => trivial) (fun _ hs => hs) (fun _ hc he => he.keeps_chained hc) hc h

/-! ## The padding invariant (R109) -/

/-- The message bytes the recorded Blocks and the first `fill` bytes of the buffer hold. -/
def heldBytes (blocks : List Block) (blk : Block) (fill : Nat) : List Byte :=
  blocks.flatMap Vector.toList ++ blk.toList.take fill

section
variable {blocks : List Block} {blk : Block} {fill : Nat}

/-- How many bytes the recorded Blocks and the buffer hold. -/
theorem heldBytes_length (hf : fill ≤ 64) : (heldBytes blocks blk fill).length = 64 * blocks.length + fill := by
  rw [heldBytes, List.length_append, blocksBytes_length, List.length_take, Vector.length_toList,
    Nat.min_eq_left hf]

/-- Byte `64q + j` of the held message is byte `j` of recorded Block `q`. -/
theorem heldBytes_getElem?_block {q j : Nat} (hq : q < blocks.length) (hj : j < 64) :
    (heldBytes blocks blk fill)[64 * q + j]? = some blocks[q][j] := by
  rw [heldBytes, List.getElem?_append_left (by rw [blocksBytes_length]; omega), blocksBytes_getElem? _ _ _ hq hj]

/-- The bytes of the held message past the recorded Blocks are those of the buffer. -/
theorem heldBytes_getElem?_buffer {j : Nat} (hf : j < fill) (hj : j < 64) :
    (heldBytes blocks blk fill)[64 * blocks.length + j]? = some blk[j] := by
  rw [heldBytes, List.getElem?_append_right (by rw [blocksBytes_length]; omega), blocksBytes_length,
    Nat.add_sub_cancel_left, List.getElem?_take_of_lt hf]
  simp [hj]

/-- A byte of the padded message that is a byte of the message (R104). -/
theorem paddedByte_of_getElem? {m : List Byte} {i : Nat} {b : Byte} (h : m[i]? = some b) : paddedByte m i = b := by
  obtain ⟨hi, -⟩ := List.getElem?_eq_some_iff.mp h
  rw [paddedByte, if_pos hi, h]
  rfl

/-- The Blocks before the padding are the recorded ones (R106). -/
theorem paddedBlock_heldBytes_of_lt {q : Nat} (hq : q < blocks.length) :
    paddedBlock (heldBytes blocks blk fill) q = blocks[q] := by
  ext j hj : 1
  rw [paddedBlock_getElem]
  exact paddedByte_of_getElem? (heldBytes_getElem?_block hq hj)

/-- A byte of the padded message past the message (R104). -/
theorem paddedByte_of_le {m : List Byte} {i : Nat} (h : m.length ≤ i) :
    paddedByte m i =
      if i = m.length then 0x80
      else if i < paddedLength (bitLength m) / 8 - 8 then 0x00
      else (BitVec.ofNat 64 (bitLength m)).extractLsb' (8 * (paddedLength (bitLength m) / 8 - 1 - i)) 8 := by
  rw [paddedByte, if_neg (by omega)]

/-- `pad` begins with the recorded Blocks (R105, R106). -/
theorem map_paddedBlock_heldBytes :
    (List.range blocks.length).map (paddedBlock (heldBytes blocks blk fill)) = blocks := by
  refine List.ext_getElem (by simp) fun q _ hq => ?_
  simp [paddedBlock_heldBytes_of_lt hq]

/-- The bit length of the held message is the `LEN` that accounts for it (R100, R109). -/
theorem bitLength_heldBytes {len : BitVec 64} (hf : fill ≤ 64) (hl : len.toNat = 512 * blocks.length + 8 * fill) :
    bitLength (heldBytes blocks blk fill) = len.toNat := by
  rw [bitLength, heldBytes_length hf]
  omega

/-- The padded message past the recorded Blocks: the buffer's bytes, 0x80, zeros, and the length field at the end of
block `k` (R104). -/
theorem paddedByte_heldBytes {len : BitVec 64} {k j : Nat} (hf : fill < 64)
    (hl : len.toNat = 512 * blocks.length + 8 * fill) (hp : paddedLength len.toNat = 512 * (blocks.length + k)) :
    paddedByte (heldBytes blocks blk fill) (64 * blocks.length + j) =
      if h : j < fill then blk[j]
      else if j = fill then 0x80
      else if j < 64 * k - 8 then 0x00
      else len.extractLsb' (8 * (64 * k - 1 - j)) 8 := by
  have hbits := bitLength_heldBytes (blk := blk) (Nat.le_of_lt hf) hl
  have hlen := heldBytes_length (blocks := blocks) (blk := blk) (Nat.le_of_lt hf)
  by_cases h : j < fill
  · rw [dif_pos h]
    exact paddedByte_of_getElem? (heldBytes_getElem?_buffer h (by omega))
  · have hend : paddedLength len.toNat / 8 = 64 * blocks.length + 64 * k := by omega
    have hzero : 64 * blocks.length + j < 64 * blocks.length + 64 * k - 8 ↔ j < 64 * k - 8 := by omega
    have hat : 64 * blocks.length + 64 * k - 1 - (64 * blocks.length + j) = 64 * k - 1 - j := by omega
    rw [dif_neg h, paddedByte_of_le (by omega), hbits, hlen, hend, hat, BitVec.ofNat_toNat, BitVec.setWidth_eq]
    simp only [hzero, Nat.add_left_cancel_iff]

/-- The one last Block of the padded message is the waiting bytes, 0x80, zeros and the length field (R103, R106). -/
theorem paddedBlock_heldBytes_of_short {fill : BitVec 6} {len : BitVec 64} (hf : fill.toNat ≤ 55)
    (hl : len.toNat = 512 * blocks.length + 8 * fill.toNat)
    (hp : paddedLength len.toNat = 512 * (blocks.length + 1)) :
    paddedBlock (heldBytes blocks blk fill.toNat) blocks.length = writeLength (padFrom blk fill) len := by
  ext j hj : 1
  rw [paddedBlock_getElem, paddedByte_heldBytes fill.isLt hl hp, writeLength, memWrite_length_getElem,
    padFrom_getElem]
  by_cases h56 : 56 ≤ j
  · rw [dif_neg (by omega), if_neg (by omega), if_neg (by omega), if_pos h56]
  · have hzero : j < 64 * 1 - 8 := by omega
    simp only [h56, hzero, if_false, if_true]
    rfl

/-- The first of two final Blocks is the waiting bytes, 0x80 and zeros (R103, R106). -/
theorem paddedBlock_heldBytes_of_long {fill : BitVec 6} {len : BitVec 64}
    (hl : len.toNat = 512 * blocks.length + 8 * fill.toNat)
    (hp : paddedLength len.toNat = 512 * (blocks.length + 2)) :
    paddedBlock (heldBytes blocks blk fill.toNat) blocks.length = padFrom blk fill := by
  ext j hj : 1
  have hzero : j < 64 * 2 - 8 := by omega
  rw [paddedBlock_getElem, paddedByte_heldBytes fill.isLt hl hp, padFrom_getElem]
  simp only [hzero, if_true]
  rfl

/-- The second of two final Blocks is zeros and the length field (R106, R107). -/
theorem paddedBlock_heldBytes_succ {fill : BitVec 6} {len : BitVec 64}
    (hl : len.toNat = 512 * blocks.length + 8 * fill.toNat)
    (hp : paddedLength len.toNat = 512 * (blocks.length + 2)) :
    paddedBlock (heldBytes blocks blk fill.toNat) (blocks.length + 1) = lengthBlock len := by
  ext j hj : 1
  have hfill := fill.isLt
  rw [paddedBlock_getElem, show 64 * (blocks.length + 1) + j = 64 * blocks.length + (64 + j) by omega,
    paddedByte_heldBytes hfill hl hp, lengthBlock_getElem, dif_neg (by omega), if_neg (by omega)]
  by_cases h56 : 56 ≤ j
  · rw [if_neg (by omega), if_pos h56, show 64 * 2 - 1 - (64 + j) = 63 - j by omega]
  · rw [if_pos (by omega), if_neg h56]

/-- `pad` of the held message where its length field fits into the block in progress (R103, R105). -/
theorem pad_heldBytes_of_short {fill : BitVec 6} {len : BitVec 64} (hf : fill.toNat ≤ 55)
    (hl : len.toNat = 512 * blocks.length + 8 * fill.toNat) :
    pad (heldBytes blocks blk fill.toNat) = .ok (blocks ++ [writeLength (padFrom blk fill) len]) := by
  have hbits := bitLength_heldBytes (blk := blk) fill.isLt.le hl
  have hp : paddedLength len.toNat = 512 * (blocks.length + 1) := by unfold paddedLength; omega
  rw [pad, hbits, if_pos len.isLt, hp, Nat.mul_div_cancel_left _ (by decide), List.range_succ, List.map_append,
    map_paddedBlock_heldBytes, List.map_singleton, paddedBlock_heldBytes_of_short hf hl hp]

/-- `pad` of the held message where its length field needs a second Block (R103, R105, R107). -/
theorem pad_heldBytes_of_long {fill : BitVec 6} {len : BitVec 64} (hf : ¬ fill.toNat ≤ 55)
    (hl : len.toNat = 512 * blocks.length + 8 * fill.toNat) :
    pad (heldBytes blocks blk fill.toNat) = .ok (blocks ++ [padFrom blk fill, lengthBlock len]) := by
  have hfill := fill.isLt
  have hbits := bitLength_heldBytes (blk := blk) hfill.le hl
  have hp : paddedLength len.toNat = 512 * (blocks.length + 2) := by unfold paddedLength; omega
  rw [pad, hbits, if_pos len.isLt, hp, Nat.mul_div_cancel_left _ (by decide), List.range_succ, List.range_succ,
    List.map_append, List.map_append, map_paddedBlock_heldBytes, List.map_singleton, List.map_singleton,
    paddedBlock_heldBytes_of_long hl hp, paddedBlock_heldBytes_succ hl hp, List.append_assoc, List.singleton_append]

end

/-- What `NEXT` asks of a record whose last Block is the one in progress: `len` counts full Blocks of a message that goes on,
or the record, with the length block if one follows, is the padding of a message of `len` bits (R23, R109). -/
def Accounted (next : Next) (len : BitVec 64) (record : List Block) : Prop :=
  match next with
  | .none => False
  | .absorb => 512 * record.length = len.toNat
  | .pad2 => ∃ m : List Byte, 8 * m.length = len.toNat ∧ pad m = .ok (record ++ [lengthBlock len])
  | .done => ∃ m : List Byte, 8 * m.length = len.toNat ∧ pad m = .ok record

/-- In `ABSORB` `State.Padded` says that the record and the fill account for `LEN` (R109). -/
theorem State.padded_iff_of_absorb {s : State} (hm : s.mode = .absorb) :
    s.Padded ↔ 512 * s.blkTrace.length + 8 * s.fill.toNat = s.len.toNat := by
  simp only [State.Padded, hm]

/-- In `DONE` `State.Padded` says that the record is the padding of a message of length `LEN` (R109). -/
theorem State.padded_iff_of_done {s : State} (hm : s.mode = .done) :
    s.Padded ↔ Accounted .done (s.lenHi ++ 0#3) s.blkTrace := by
  simp only [State.Padded, hm, State.CompletesPadding, State.IsPaddingOf, State.len_eq, List.append_nil, Accounted]

/-- Before `LOAD` `State.Padded` is about the record with the Block in `BLK` (R109). -/
theorem State.padded_iff_of_load {s : State} (hm : s.mode = .busy) (hp : s.phase = .load) :
    s.Padded ↔ Accounted s.next (s.lenHi ++ 0#3) (s.blkTrace ++ [s.blk]) := by
  cases hn : s.next <;>
    simp [State.Padded, hm, hp, hn, State.CompletesPadding, State.IsPaddingOf, State.len_eq, Accounted]

/-- In the rounds and before the fold `State.Padded` is about the record, where the Block in progress stands (R109). -/
theorem State.padded_iff_of_rounds {s : State} (hm : s.mode = .busy) (hp : s.phase = .round ∨ s.phase = .fold) :
    s.Padded ↔ Accounted s.next (s.lenHi ++ 0#3) s.blkTrace := by
  cases hn : s.next <;> obtain hp | hp := hp <;>
    simp [State.Padded, hm, hp, hn, State.CompletesPadding, State.IsPaddingOf, State.len_eq, Accounted]

/-- Before `PAD2` `State.Padded` says that only the length block is missing (R107, R109). -/
theorem State.padded_iff_of_pad2 {s : State} (hm : s.mode = .busy) (hp : s.phase = .pad2) :
    s.Padded ↔ s.next = .pad2 ∧ Accounted .pad2 (s.lenHi ++ 0#3) s.blkTrace := by
  cases hn : s.next <;>
    simp [State.Padded, hm, hp, hn, State.CompletesPadding, State.IsPaddingOf, State.len_eq, Accounted]

/-- A byte that leaves room in the block counts one more in the fill (R101). -/
theorem State.absorbByte_fill_toNat {s : State} (hl : s.len ≠ maxLen) (hf : s.fill ≠ 63) (b : Byte) :
    (s.absorbByte b).fill.toNat = s.fill.toNat + 1 := by
  have hne : s.fill.toNat ≠ 63 := fun h => hf (BitVec.eq_of_toNat_eq h)
  have hlen := s.len_toNat
  rw [State.fill_toNat] at hne ⊢
  rw [State.fill_toNat, State.absorbByte_len_toNat hl]
  omega

/-- The byte that fills the block starts block processing (R101). -/
theorem State.absorbByte_control_of_full {s : State} (hf : s.fill = 63) (b : Byte) :
    (s.absorbByte b).mode = .busy ∧ (s.absorbByte b).phase = .load ∧ (s.absorbByte b).next = .absorb := by
  rw [State.absorbByte_of_full hf]
  exact ⟨rfl, rfl, rfl⟩

/-- A byte absorbed leaves `LEN` and the fill accounting for one more byte (R101, R109). -/
theorem State.padded_absorbByte {s : State} (hm : s.mode = .absorb) (hl : s.len ≠ maxLen) (hp : s.Padded) (b : Byte) :
    (s.absorbByte b).Padded := by
  rw [State.padded_iff_of_absorb hm] at hp
  have hlen := State.absorbByte_len_toNat hl b
  by_cases hf : s.fill = 63
  · have hfill : s.fill.toNat = 63 := by rw [hf]; rfl
    obtain ⟨hmode, hphase, hnext⟩ := State.absorbByte_control_of_full hf b
    rw [State.padded_iff_of_load hmode hphase, hnext, ← State.len_eq]
    show 512 * _ = (s.absorbByte b).len.toNat
    rw [hlen, List.length_append, List.length_singleton, State.absorbByte_blkTrace]
    omega
  · rw [State.padded_iff_of_absorb, hlen, State.absorbByte_fill_toNat hl hf, State.absorbByte_blkTrace]
    · omega
    · rw [State.absorbByte_of_not_full hf]
      exact hm

/-- `FINAL` leaves the Block in `BLK`, and the length block where a second one follows, to complete the padding of the bytes
absorbed (R103, R109). -/
theorem State.padded_finalise {s : State} (hm : s.mode = .absorb) (hp : s.Padded) : s.finalise.Padded := by
  rw [State.padded_iff_of_absorb hm] at hp
  have hbytes : 8 * (heldBytes s.blkTrace s.blk s.fill.toNat).length = s.len.toNat := by
    rw [heldBytes_length s.fill.isLt.le]
    omega
  by_cases hf : s.fill.toNat ≤ 55
  · rw [State.finalise_of_short hf]
    exact (State.padded_iff_of_load rfl rfl).mpr ⟨_, hbytes, pad_heldBytes_of_short hf hp.symm⟩
  · rw [State.finalise_of_long hf]
    refine (State.padded_iff_of_load rfl rfl).mpr ⟨_, hbytes, ?_⟩
    rw [pad_heldBytes_of_long hf hp.symm, List.append_assoc, List.singleton_append]
    rfl

/-- Every instruction keeps the padding invariant (R109). -/
theorem Effect.keeps_padded {i : Instr} {s t : State} (hp : s.Padded) (h : Effect i s t) : t.Padded := by
  cases h with
  | held | nop | rdstat | rddigest | updateRefused | finalRefused | rddigestRefused | illegal => exact hp
  | starts => exact (State.padded_iff_of_absorb rfl).mpr (by simp [State.fill_eq, State.len_eq])
  | tooLarge => exact trivial
  | stores b hm hl | fills b hm hl => exact State.padded_absorbByte hm hl hp b
  | finalises data hm => exact State.padded_finalise hm hp
  | loads hm hph =>
    rw [State.padded_iff_of_load hm hph] at hp
    exact (State.padded_iff_of_rounds (by exact hm) (.inl rfl)).mpr hp
  | rounds u hm hph =>
    rw [State.padded_iff_of_rounds hm (.inl hph)] at hp
    exact (State.padded_iff_of_rounds (by exact hm) (.inl rfl)).mpr hp
  | lastRound u hm hph =>
    rw [State.padded_iff_of_rounds hm (.inl hph)] at hp
    exact (State.padded_iff_of_rounds (by exact hm) (.inr rfl)).mpr hp
  | foldsToAbsorb hm hph _ hn =>
    rw [State.padded_iff_of_rounds hm (.inr hph), hn] at hp
    have hfull : 512 * s.blkTrace.length = s.len.toNat := hp
    rw [State.padded_iff_of_absorb rfl, State.fill_toNat]
    show 512 * s.blkTrace.length + 8 * (s.len.toNat / 8 % 64) = s.len.toNat
    omega
  | foldsToDone hm hph _ hn =>
    rw [State.padded_iff_of_rounds hm (.inr hph), hn] at hp
    exact (State.padded_iff_of_done rfl).mpr hp
  | foldsToPad2 hm hph _ hn =>
    rw [State.padded_iff_of_rounds hm (.inr hph), hn] at hp
    exact (State.padded_iff_of_pad2 (by exact hm) rfl).mpr ⟨hn, hp⟩
  | pads hm hph =>
    rw [State.padded_iff_of_pad2 hm hph] at hp
    exact (State.padded_iff_of_load (by exact hm) rfl).mpr hp.2

/-- Settles O52: a reset leaves `IDLE`, where nothing is claimed, and every effect of an instruction keeps the padding
invariant. -/
theorem stepKeepsPadded : Obligations.StepKeepsPadded := by
  intro s t _ hp h
  exact step_keeps (P := State.Padded) (fun _ _ => trivial) (fun _ hs => hs) (fun _ hp he => he.keeps_padded hp) hp h

/-- Settles O21: reset clears the control registers, and in `IDLE` the other two invariants claim nothing. -/
theorem resetMeetsTheInvariants : Obligations.ResetMeetsTheInvariants :=
  ⟨(State.legal_iff_of_not_busy (by simp [State.reset])).mpr (by simp [State.reset]), trivial, trivial⟩

/-! ## Whose turn it is (R10, R16, R65) -/

/-- A micro-operation that answers a next state is the one the sequencer word decodes to (R65). -/
theorem decode_seq_of_exec {i : Instr} {s t : State} (hi : i.isCommand = false) (h : exec i s = .next t) :
    decode (.sequencer s.seq) = .ok i := by
  rw [decode_seq]
  cases i with
  | load =>
    obtain ⟨⟨-, hp, ht⟩, -⟩ := execLoad_next h
    rw [hp, ht]
    rfl
  | round u =>
    obtain ⟨⟨-, hp, ht⟩, -⟩ := execRound_next h
    rw [hp, ht]
  | fold =>
    obtain ⟨⟨-, hp, ht⟩, -⟩ := execFold_next h
    rw [hp, ht]
    rfl
  | pad2 =>
    obtain ⟨⟨-, hp, ht⟩, -⟩ := execPad2_next h
    rw [hp, ht]
    rfl
  | _ => cases hi

/-- In a legal busy state the sequencer word decodes to a micro-operation that answers a next state (R16, R31). -/
theorem State.legal_busy_exec {s : State} (hl : s.Legal = true) (hm : s.mode = .busy) :
    ∃ i t, decode (.sequencer s.seq) = .ok i ∧ i.isCommand = false ∧ exec i s = .next t := by
  obtain ⟨-, hn, -, -⟩ := (State.legal_iff_of_busy hm).mp hl
  obtain ⟨i, hd, he, hi⟩ := State.legal_busy_enabled hl hm
  obtain ⟨t, ht⟩ := exec_micro_next hi he hn
  exact ⟨i, t, hd, hi, ht⟩

/-- Where the core is not busy no micro-operation is enabled (R65). -/
theorem State.ifEnabled_of_not_busy {s : State} (hm : s.mode ≠ .busy) (i : Instr) (e : Result) :
    s.ifEnabled i e = .fault .notEnabled := by
  simp [State.ifEnabled, State.enabled, hm]

/-- Settles O25: a micro-operation that answers a next state is the one the sequencer word decodes to, and a legal busy state
has one. -/
theorem exactlyOneMicroOperationWhileBusy : Obligations.ExactlyOneMicroOperationWhileBusy := by
  intro s hl
  refine ⟨fun hm => ?_, fun hm i hi => ?_⟩
  · obtain ⟨i, t, hd, hi, ht⟩ := State.legal_busy_exec hl hm
    refine ⟨i, t, hi, ht, fun i' t' hi' ht' => ?_⟩
    have hd' := decode_seq_of_exec hi' ht'
    exact Except.ok.inj (hd'.symm.trans hd)
  · cases i with
    | load | round | fold | pad2 => exact State.ifEnabled_of_not_busy hm _ _
    | _ => cases hi

/-- A command word decodes to a command, never to a micro-operation (R62). -/
theorem decodeCommand_isCommand (w : CommandWord) : (decodeCommand w).isCommand = true := by
  unfold decodeCommand decodeRddigest
  split_ifs <;> split <;> rfl

/-- A turn that runs an instruction makes the step its meaning (R10). -/
theorem step_of_run {s : State} {i : Instr} (h : s.nextTurn = .run i) : step s = exec i s.beginTurn := by
  simp only [step, h]

/-- Settles O26: a reset and a command always answer, and a legal busy state has a micro-operation that answers. -/
theorem legalStatesAlwaysStep : Obligations.LegalStatesAlwaysStep := by
  refine fun s => ⟨fun hl => ?_, step_illegal⟩
  obtain ⟨rest, hin⟩ | hcore | ⟨w, rest, -, -, hrun⟩ := State.nextTurn_cases hl
  · exact ⟨_, step_reset hin⟩
  · by_cases hm : s.mode = .busy
    · obtain ⟨i, t, hd, -, ht⟩ := State.legal_busy_exec (s := s.beginTurn) hl hm
      exact ⟨t, (step_of_run (hcore.trans (State.coreTurn_busy hm hd))).trans ht⟩
    · exact ⟨s.beginTurn, by simp only [step, hcore, State.coreTurn_not_busy hm]⟩
  · obtain ⟨t, ht⟩ := exec_command_next (decodeCommand w) s.beginTurn (decodeCommand_isCommand w)
    exact ⟨t, (step_of_run hrun).trans ht⟩

/-- Settles O23: with a quiet port, a held command and a withdrawn one, the step is the micro-operation's meaning. -/
theorem stepRunsTheMicroOperation : Obligations.StepRunsTheMicroOperation := by
  intro s i hl hm hd
  refine ⟨fun hin => ?_, fun rest hin => ?_, fun w rest hin hr => step_held hl hin hr hd,
    fun w rest hin hr => step_withdrawn hl hin hr hd⟩
  · rw [step_micro hl hm (.inl hin) hd]
    simp only [hin, List.tail_nil]
  · rw [step_micro hl hm (.inr ⟨rest, hin⟩) hd]
    simp only [hin, List.tail_cons]

/-! ## Who writes which register (R13, R14, R24, R26, R27) -/

section
variable {i : Instr} {s t : State}

/-- `H` is written by `FOLD` and `INIT` (R13). -/
theorem Effect.owner_h (h : Effect i s t) (hne : t.h ≠ s.h) : i = .fold ∨ ∃ data, i = .init data := by
  cases h with
  | starts data => exact .inr ⟨data, rfl⟩
  | foldsToAbsorb | foldsToDone | foldsToPad2 => exact .inl rfl
  | _ => simp at hne

/-- `R` is written by `LOAD` and `ROUND` (R14). -/
theorem Effect.owner_r (h : Effect i s t) (hne : t.r ≠ s.r) : i = .load ∨ ∃ u, i = .round u := by
  cases h with
  | loads => exact .inl rfl
  | rounds u | lastRound u => exact .inr ⟨u, rfl⟩
  | _ => simp at hne

/-- A schedule step that changes the schedule file has an index of 16 or more (R124). -/
theorem le_of_scheduleStep_ne {w : ScheduleWords} {n : Nat} {hn : n < 64} (h : scheduleStep w n hn ≠ w) : 16 ≤ n := by
  by_contra hlt
  exact h (if_neg hlt)

/-- `W` is written by `LOAD` and by the `ROUND`s from 16 on (R26). -/
theorem Effect.owner_w (h : Effect i s t) (hne : t.w ≠ s.w) :
    i = .load ∨ ∃ u, i = .round u ∧ 16 ≤ u.toNat := by
  cases h with
  | loads => exact .inl rfl
  | rounds u | lastRound u => exact .inr ⟨u, rfl, le_of_scheduleStep_ne hne⟩
  | _ => simp at hne

/-- `BLK` is written by `PAD2`, `UPDATE` and `FINAL` (R27). -/
theorem Effect.owner_blk (h : Effect i s t) (hne : t.blk ≠ s.blk) :
    i = .pad2 ∨ (∃ b, i = .update b) ∨ ∃ data, i = .final data := by
  cases h with
  | pads => exact .inl rfl
  | stores b | fills b => exact .inr (.inl ⟨b, rfl⟩)
  | finalises data => exact .inr (.inr ⟨data, rfl⟩)
  | _ => simp at hne

/-- `LEN` is written by `UPDATE` and `INIT` (R24). -/
theorem Effect.owner_lenHi (h : Effect i s t) (hne : t.lenHi ≠ s.lenHi) :
    (∃ b, i = .update b) ∨ ∃ data, i = .init data := by
  cases h with
  | stores b | fills b => exact .inl ⟨b, rfl⟩
  | starts data => exact .inr ⟨data, rfl⟩
  | _ => simp at hne

/-- The record is written by `LOAD` and `INIT` (R27). -/
theorem Effect.owner_blkTrace (h : Effect i s t) (hne : t.blkTrace ≠ s.blkTrace) :
    i = .load ∨ ∃ data, i = .init data := by
  cases h with
  | loads => exact .inl rfl
  | starts data => exact .inr ⟨data, rfl⟩
  | _ => simp at hne

/-- Only `FOLD` leaves `BUSY` (R137). -/
theorem Effect.fold_of_leaves_busy (h : Effect i s t) (hs : s.mode = .busy) (ht : t.mode ≠ .busy) : i = .fold := by
  cases h with
  | foldsToAbsorb | foldsToDone | foldsToPad2 => rfl
  | _ => simp_all

end

/-- Settles O45, register by register. -/
theorem registersChangeOnlyByTheirOwners : Obligations.RegistersChangeOnlyByTheirOwners := by
  intro i s t h
  have he := exec_effect h
  exact ⟨he.owner_h, he.owner_r, he.owner_w, he.owner_blk, he.owner_lenHi, he.owner_blkTrace, he.fold_of_leaves_busy⟩

/-! ## How the sequencer advances (R18) -/

/-- A byte that leaves room in the block keeps the core in its mode and the sequencer at rest (R101). -/
theorem State.absorbByte_control_of_not_full {s : State} (hf : s.fill ≠ 63) (b : Byte) :
    (s.absorbByte b).mode = s.mode ∧ (s.absorbByte b).phase = s.phase ∧ (s.absorbByte b).next = s.next := by
  rw [State.absorbByte_of_not_full hf]
  exact ⟨rfl, rfl, rfl⟩

/-- When the fill index is 63, in the spec's terms (R24). -/
theorem State.fill_eq_63_iff (s : State) : s.fill = 63 ↔ s.len.toNat / 8 % 64 = 63 := by
  rw [← State.fill_toNat]
  exact BitVec.toNat_inj.symm

/-- The commands that lead into `BUSY` are `FINAL` and the `UPDATE` of the byte that fills the block, and they leave `LOAD`
next (R101, R103). -/
theorem Effect.enters_busy {i : Instr} {s t : State} (h : Effect i s t) (hl : s.Legal = true)
    (hi : i.isCommand = true) (hs : s.mode ≠ .busy) (ht : t.mode = .busy) :
    (t.phase, t.t) = (.load, 0) ∧
      ((∃ data, i = .final data) ∨ ∃ b, i = .update b ∧ s.len.toNat / 8 % 64 = 63) := by
  obtain ⟨-, -, h0, -⟩ := (State.legal_iff_of_not_busy hs).mp hl
  cases h with
  | finalises data => exact ⟨by simp [h0], .inl ⟨data, rfl⟩⟩
  | fills b _ _ hf =>
    obtain ⟨-, hphase, -⟩ := State.absorbByte_control_of_full hf b
    exact ⟨by simp [hphase, h0], .inr ⟨b, rfl, s.fill_eq_63_iff.mp hf⟩⟩
  | stores b _ _ hf => exact absurd ((State.absorbByte_control_of_not_full hf b).1.symm.trans ht) hs
  | _ => simp_all

/-- An accepted `FINAL`, and an accepted `UPDATE` of the byte that fills the block, lead into `BUSY` (R101, R103). -/
theorem Effect.busy_of_starting {i : Instr} {s t : State} (h : Effect i s t) (hm : s.mode = .absorb)
    (hi : (∃ data, i = .final data) ∨ ∃ b, i = .update b ∧ s.len.toNat / 8 % 64 = 63 ∧ s.len ≠ maxLen) :
    i.isCommand = true ∧ t.mode = .busy := by
  obtain ⟨data, rfl⟩ | ⟨b, rfl, h63, hmax⟩ := hi
  · cases h with
    | finalises => exact ⟨rfl, State.finalise_mode s⟩
    | _ => simp_all [illegalRows]
  · rw [← s.fill_eq_63_iff] at h63
    cases h with
    | fills _ _ _ hf => exact ⟨rfl, (State.absorbByte_control_of_full hf b).1⟩
    | _ => simp_all [illegalRows]

/-- A command issued in `BUSY`, or one that does not lead there, leaves the sequencer as it is (R150, R151, R156). -/
theorem Effect.command_keeps_sequencer {i : Instr} {s t : State} (h : Effect i s t) (hi : i.isCommand = true)
    (hm : s.mode = .busy ∨ t.mode ≠ .busy) : (t.phase, t.t) = (s.phase, s.t) := by
  cases h with
  | stores b _ _ hf =>
    obtain ⟨-, hphase, -⟩ := State.absorbByte_control_of_not_full hf b
    simp [hphase]
  | fills b ha _ hf => simp [ha, State.absorbByte_control_of_full hf b] at hm
  | finalises _ ha => simp [ha] at hm
  | loads | rounds | lastRound | foldsToAbsorb | foldsToDone | foldsToPad2 | pads => cases hi
  | _ => rfl

/-- Settles O46: the commands by what leads into `BUSY`, each micro-operation by its own rule. -/
theorem sequencerAdvancesAsTabulated : Obligations.SequencerAdvancesAsTabulated := by
  intro i s t hl h
  have he := exec_effect h
  refine ⟨he.enters_busy hl, fun hm hi => ?_, he.command_keeps_sequencer, ?_, ?_, ?_, ?_⟩
  · obtain ⟨hc, hb⟩ := he.busy_of_starting hm hi
    exact (he.enters_busy hl hc (by simp [hm]) hb).1
  · rintro rfl
    obtain ⟨⟨-, hp, ht⟩, rfl⟩ := execLoad_next h
    exact ⟨by rw [hp, ht], rfl⟩
  · rintro u rfl
    obtain ⟨⟨-, hp, ht⟩, rfl⟩ := execRound_next h
    refine ⟨by rw [hp, ht], ?_⟩
    by_cases hu : u = 63
    · simp only [if_pos hu]
    · simp only [if_neg hu]
  · rintro rfl
    obtain ⟨⟨-, hp, ht⟩, hcase⟩ := execFold_next h
    refine ⟨by rw [hp, ht], ?_⟩
    obtain ⟨hn, rfl⟩ | ⟨hn, rfl⟩ | ⟨hn, rfl⟩ := hcase <;> simp [hn, ht]
  · rintro rfl
    obtain ⟨⟨-, hp, ht⟩, rfl⟩ := execPad2_next h
    exact ⟨by rw [hp, ht], by rw [ht]⟩

/-! ## The error flags (R20, R170) -/

/-- `ERR_TOO_LARGE` is set by the `UPDATE` that raises InputTooLarge (R171). -/
theorem Effect.sets_errTooLarge {i : Instr} {s t : State} (h : Effect i s t) (hs : s.errTooLarge = false)
    (ht : t.errTooLarge = true) : (∃ b, i = .update b) ∧ s.mode = .absorb ∧ s.len = maxLen := by
  cases h with
  | tooLarge b hm hl => exact ⟨⟨b, rfl⟩, hm, hl⟩
  | _ => simp [hs] at ht

/-- `ERR_SEQ` is set by the commands that raise SequenceError (R172). -/
theorem Effect.sets_errSeq {i : Instr} {s t : State} (h : Effect i s t) (hs : s.errSeq = false)
    (ht : t.errSeq = true) : (∃ b, i = .update b) ∨ (∃ data, i = .final data) ∨ ∃ k, i = .rddigest k := by
  cases h with
  | updateRefused b => exact .inl ⟨b, rfl⟩
  | finalRefused data => exact .inr (.inl ⟨data, rfl⟩)
  | rddigestRefused k => exact .inr (.inr ⟨k, rfl⟩)
  | _ => simp [hs] at ht

/-- `ERR_ILL` is set by the words that raise IllegalCommand (R173). -/
theorem Effect.sets_errIll {i : Instr} {s t : State} (h : Effect i s t) (hs : s.errIll = false)
    (ht : t.errIll = true) : ∃ data, i ∈ illegalRows data := by
  cases h with
  | illegal data _ hi => exact ⟨data, hi⟩
  | _ => simp [hs] at ht

/-- An error flag is set before and clear after. -/
def ClearsAFlag (s t : State) : Prop :=
  (s.errTooLarge = true ∧ t.errTooLarge = false) ∨ (s.errSeq = true ∧ t.errSeq = false) ∨
    (s.errIll = true ∧ t.errIll = false)

/-- No flag is both set and clear in one state. -/
theorem not_clearsAFlag_self (s : State) : ¬ ClearsAFlag s s := by
  simp [ClearsAFlag]

/-- Of the instructions only an accepted `INIT` clears a flag (R20, R152). -/
theorem Effect.init_of_clearsAFlag {i : Instr} {s t : State} (h : Effect i s t) (hc : ClearsAFlag s t) :
    (∃ data, i = .init data) ∧ s.mode ≠ .busy := by
  cases h with
  | starts data hm => exact ⟨⟨data, rfl⟩, hm⟩
  | _ => simp [ClearsAFlag] at hc

/-- Opcode 0x4 is no `INIT` (R62). -/
theorem decodeRddigest_ne_init (b data : Byte) : decodeRddigest b ≠ .init data := by
  unfold decodeRddigest
  split_ifs <;> simp

/-- The command words that decode to `INIT` have its opcode (R62). -/
theorem op_of_decodeCommand_init {w : CommandWord} {data : Byte} (h : decodeCommand w = .init data) :
    w.extractLsb' 8 4 = 0x1#4 := by
  unfold decodeCommand at h
  split at h
  case h_2 hop => exact hop
  case h_5 => exact absurd h (decodeRddigest_ne_init _ _)
  all_goals cases h

/-- Settles O47: who sets each flag, and of the step's four cases only a reset and an accepted `INIT` clear one. -/
theorem errorFlagsAreSticky : Obligations.ErrorFlagsAreSticky := by
  refine ⟨fun i s t h => ?_, fun s t h hc => ?_⟩
  · have he := exec_effect h
    exact ⟨he.sets_errTooLarge, he.sets_errSeq, he.sets_errIll⟩
  · obtain ⟨hreset, -⟩ | ⟨-, w, rest, hin, -, hx⟩ | ⟨-, hm, i, -, hx⟩ | ⟨-, -, rfl⟩ := step_cases h
    · exact .inl hreset
    · obtain ⟨⟨data, hd⟩, hm⟩ := (exec_effect hx).init_of_clearsAFlag hc
      exact .inr ⟨w, rest, hin, op_of_decodeCommand_init hd, hm⟩
    · exact absurd hm ((exec_effect hx).init_of_clearsAFlag hc).2
    · exact absurd hc (not_clearsAFlag_self s)

end Sys2Proof.Machine
end

section
/-! PROOF. The byte order of the block buffer (R44, R70, R72), the frame of the commands that start no processing (R48), and
what a response can depend on (R50, R64). -/

namespace Sys2Proof.Machine

/-! ## Byte order (R44, R70, R72) -/

/-- Four adjacent bytes of a bit vector, the highest first, are the 32 bits they cover. -/
theorem extractLsb'_eq_append_bytes {w : Nat} (v : BitVec w) (n : Nat) :
    v.extractLsb' (n + 24) 8 ++ v.extractLsb' (n + 16) 8 ++ v.extractLsb' (n + 8) 8 ++ v.extractLsb' n 8 =
      v.extractLsb' n 32 := by
  rw [BitVec.extractLsb'_append_extractLsb'_eq_extractLsb' (by omega),
    BitVec.extractLsb'_append_extractLsb'_eq_extractLsb' (by omega),
    BitVec.extractLsb'_append_extractLsb'_eq_extractLsb' (by omega)]

/-- The big-endian value of four bytes is their concatenation (R7, R40). -/
theorem ofNat_beNat_four (b₀ b₁ b₂ b₃ : Byte) :
    BitVec.ofNat 32 (beNat [b₀, b₁, b₂, b₃]) = b₀ ++ b₁ ++ b₂ ++ b₃ := by
  refine BitVec.eq_of_toNat_eq ?_
  have hword : beNat [b₀, b₁, b₂, b₃] = (b₀ ++ b₁ ++ b₂ ++ b₃).toNat := by
    simp only [append_toNat, beNat, List.length_cons, List.length_nil]
    omega
  rw [hword, BitVec.ofNat_toNat, BitVec.setWidth_eq]

/-- A word of a Block is its four bytes, the first most significant (R70). -/
theorem blockWord_eq_append (blk : Block) (i : Nat) (hi : i < 16) :
    blockWord blk i = blk[4 * i] ++ blk[4 * i + 1] ++ blk[4 * i + 2] ++ blk[4 * i + 3] := by
  have hbytes : (List.range 4).map (fun k => blk[4 * i + k]?.getD 0) =
      [blk[4 * i], blk[4 * i + 1], blk[4 * i + 2], blk[4 * i + 3]] := by
    have hget : ∀ (j : Nat) (hj : j < 64), blk[j]?.getD 0 = blk[j] := fun j hj => by simp [hj]
    simp only [← hget]
    rfl
  rw [← ofNat_beNat_four, ← hbytes]
  rfl

/-- The length field written at 56 is read back as words 14 (the high half) and 15 (the low half) (R72). -/
theorem blockWord_memWrite_length (blk : Block) (v : BitVec 64) (i : Nat) (h14 : 14 ≤ i) (hi : i < 16) :
    blockWord (memWrite blk 56 8 v) i = v.extractLsb' (32 * (15 - i)) 32 := by
  have hbyte : ∀ (j n : Nat) (hj : j < 64), 56 ≤ j → 8 * (63 - j) = n →
      (memWrite blk 56 8 v)[j] = v.extractLsb' n 8 := by
    rintro j _ hj h56 rfl
    rw [memWrite_length_getElem, if_pos h56]
  rw [blockWord_eq_append _ _ hi, ← extractLsb'_eq_append_bytes,
    hbyte (4 * i) (32 * (15 - i) + 24) (by omega) (by omega) (by omega),
    hbyte (4 * i + 1) (32 * (15 - i) + 16) (by omega) (by omega) (by omega),
    hbyte (4 * i + 2) (32 * (15 - i) + 8) (by omega) (by omega) (by omega),
    hbyte (4 * i + 3) (32 * (15 - i)) (by omega) (by omega) (by omega)]

/-- Settles O10: a word is its four bytes, and so the length field's eight bytes are words 14 and 15. -/
theorem blockViewsAreBigEndian : Obligations.BlockViewsAreBigEndian := by
  refine ⟨fun blk i => blockWord_eq_append blk i.val i.isLt, fun blk v => ⟨fun k => ?_, fun j hj => ?_,
    blockWord_memWrite_length blk v 14 (by omega) (by omega), blockWord_memWrite_length blk v 15 (by omega) (by omega)⟩⟩
  · rw [memWrite_length_getElem, if_pos (by omega), show 8 * (63 - (56 + k.val)) = 56 - 8 * k.val by omega]
  · exact (memWrite_length_getElem blk v j.val j.isLt).trans (if_neg (by omega))

/-! ## The frame of the other commands (R48, R172, R173) -/

/-- All thirteen words that are no legal command have one meaning (R157, R68). -/
theorem exec_of_mem_illegalRows {i : Instr} {data : Byte} (hi : i ∈ illegalRows data) (s : State) :
    exec i s = illegalCommand s := by
  simp only [illegalRows, List.mem_cons, List.not_mem_nil, or_false] at hi
  obtain rfl | rfl | rfl | rfl | rfl | rfl | rfl | rfl | rfl | rfl | rfl | rfl | rfl := hi <;> rfl

/-- Settles O43: each of these commands holds, responds, or raises its one exception. -/
theorem frameOfOtherCommands : Obligations.FrameOfOtherCommands := by
  refine fun i s t h => ⟨fun data hi => ?_, fun k hi => ?_, fun data hi => ?_⟩
  · obtain rfl | rfl := hi <;> cases h <;> rfl
  · subst hi
    obtain ⟨-, rfl⟩ | ⟨-, -, rfl⟩ | ⟨-, rfl⟩ := execRddigest_next h <;> rfl
  · rw [exec_of_mem_illegalRows hi] at h
    obtain ⟨-, rfl⟩ | ⟨-, rfl⟩ := illegalCommand_next h <;> rfl

/-! ## What a response depends on (R50, R64) -/

/-- The response in the state that command `i` answers from `s`; `exec_command_rsp` ties it to `exec`. A held command drives
no response, so the port keeps its value (R150, R64). -/
def commandResponse (i : Instr) (s : State) : Option Byte :=
  match i with
  | .nop _ => some 0
  | .rdstat _ => some s.status
  | .rddigest k =>
    if s.mode = .busy then s.rsp else if s.mode = .done then some (digestByte s.h k) else some 0
  | _ => if s.mode = .busy then s.rsp else some 0

/-- Every command responds as R64 tabulates. -/
theorem exec_command_rsp {i : Instr} {s t : State} (hi : i.isCommand = true) (h : exec i s = .next t) :
    t.rsp = commandResponse i s := by
  cases i with
  | nop | rdstat =>
    cases h
    rfl
  | rddigest k =>
    obtain ⟨hm, rfl⟩ | ⟨hb, hm, rfl⟩ | ⟨hm, rfl⟩ := execRddigest_next h
    · simp [commandResponse, hm]
    · simp [commandResponse, hb, hm]
    · simp [commandResponse, hm]
  | init =>
    obtain ⟨hm, rfl⟩ | ⟨hm, rfl⟩ := execInit_next h <;> simp [commandResponse, hm]
  | update =>
    obtain ⟨hm, rfl⟩ | ⟨hm, -, rfl⟩ | ⟨hm, -, rfl⟩ | ⟨hm, -, rfl⟩ := execUpdate_next h <;> simp [commandResponse, hm]
  | final =>
    obtain ⟨hm, rfl⟩ | ⟨hm, -, rfl⟩ | ⟨hm, rfl⟩ := execFinal_next h <;> simp [commandResponse, hm]
  | load | round | fold | pad2 => cases hi
  | _ =>
    obtain ⟨hm, rfl⟩ | ⟨hm, rfl⟩ := illegalCommand_next h <;> simp [commandResponse, hm]

/-- The status byte is a function of the mode and the flags (R63). -/
theorem State.status_congr {s₁ s₂ : State} (hmode : s₁.mode = s₂.mode) (hlarge : s₁.errTooLarge = s₂.errTooLarge)
    (hseq : s₁.errSeq = s₂.errSeq) (hill : s₁.errIll = s₂.errIll) : s₁.status = s₂.status := by
  simp only [State.status, State.digestValidBit, State.busyBit, hmode, hlarge, hseq, hill]

/-- Settles O48: `RDSTAT` responds by the status byte, `RDDIGEST` by `H` in `DONE`, every other command by the mode alone. -/
theorem responsesDoNotLeak : Obligations.ResponsesDoNotLeak := by
  intro i s₁ s₂ t₁ t₂ hi hmode hlarge hseq hill hrsp hh h₁ h₂
  rw [exec_command_rsp hi h₁, exec_command_rsp hi h₂]
  cases i with
  | nop => rfl
  | rdstat => exact congrArg some (State.status_congr hmode hlarge hseq hill)
  | rddigest k =>
    by_cases hd : s₁.mode = .done
    · simp only [commandResponse, ← hmode, hrsp, hh hd]
    · simp only [commandResponse, ← hmode, hrsp, hd, if_false]
  | _ => simp only [commandResponse, hmode, hrsp]

end Sys2Proof.Machine
end

section
/-! PROOF. The encoding (30_encoding.md R61, R62, R65, R68): the fields of a word, the decoder by opcode and by operand row,
and that encoder, decoder and opcode table agree. -/

namespace Sys2Proof

/-! ## The fields of a word (R61, R65) -/

@[simp] theorem CommandWord.op_append (op : BitVec 4) (data : Byte) : CommandWord.op (op ++ data) = op :=
  BitVec.extractLsb'_append_eq_left

@[simp] theorem CommandWord.data_append (op : BitVec 4) (data : Byte) : CommandWord.data (op ++ data) = data :=
  BitVec.extractLsb'_append_eq_right

@[simp] theorem SeqWord.phase_append (p : BitVec 3) (t : BitVec 6) : SeqWord.phase (p ++ t) = p :=
  BitVec.extractLsb'_append_eq_left

@[simp] theorem SeqWord.t_append (p : BitVec 3) (t : BitVec 6) : SeqWord.t (p ++ t) = t :=
  BitVec.extractLsb'_append_eq_right

/-- The high and the low field of a bit vector make it up. -/
theorem extractLsb'_append_low {m n : Nat} (x : BitVec (m + n)) : x.extractLsb' n m ++ x.extractLsb' 0 n = x :=
  (BitVec.extractLsb'_append_extractLsb'_eq_extractLsb' (Nat.zero_add n).symm).trans BitVec.extractLsb'_eq_self

/-- A command word is its opcode and its operand byte (R61). -/
@[simp] theorem commandWord_op_data (w : CommandWord) : commandWord w.op w.data = .command w :=
  congrArg CoreWord.command (extractLsb'_append_low (m := 4) (n := 8) w)

/-- A sequencer word is its phase and its round index (R65). -/
@[simp] theorem sequencerWord_phase_t (w : SeqWord) : sequencerWord w.phase w.t = .sequencer w :=
  congrArg CoreWord.sequencer (extractLsb'_append_low (m := 3) (n := 6) w)

/-- A field inside a field of known value. -/
theorem extractLsb'_of_extractLsb'_eq {N k n : Nat} {x : BitVec N} {c : BitVec n} (h : x.extractLsb' k n = c)
    (j : Nat) {m : Nat} (hm : j + m ≤ n) : x.extractLsb' (k + j) m = c.extractLsb' j m := by
  rw [← h]
  ext i hi
  simp only [BitVec.getElem_extractLsb', BitVec.getLsbD_extractLsb', Nat.add_assoc]
  simp [show j + i < n by omega]

/-! ## The four operand rows of opcode 0x4 (R62, R68 (b)) -/

section
variable {data : Byte}

theorem decodeRddigest_of_1xx (h : data.extractLsb' 7 1 = 1#1) : decodeRddigest data = .rddigestIllegal1xx data :=
  if_pos h

theorem decodeRddigest_of_01x (h : data.extractLsb' 6 2 = 0b01#2) : decodeRddigest data = .rddigestIllegal01x data := by
  have h7 : data.extractLsb' 7 1 = 0#1 := extractLsb'_of_extractLsb'_eq h 1 (by omega)
  have h6 : data.extractLsb' 6 1 = 1#1 := extractLsb'_of_extractLsb'_eq h 0 (by omega)
  simp [decodeRddigest, h7, h6]

theorem decodeRddigest_of_001 (h : data.extractLsb' 5 3 = 0b001#3) :
    decodeRddigest data = .rddigestIllegal001 data := by
  have h7 : data.extractLsb' 7 1 = 0#1 := extractLsb'_of_extractLsb'_eq h 2 (by omega)
  have h6 : data.extractLsb' 6 1 = 0#1 := extractLsb'_of_extractLsb'_eq h 1 (by omega)
  have h5 : data.extractLsb' 5 1 = 1#1 := extractLsb'_of_extractLsb'_eq h 0 (by omega)
  simp [decodeRddigest, h7, h6, h5]

theorem decodeRddigest_of_000 (h : data.extractLsb' 5 3 = 0#3) :
    decodeRddigest data = .rddigest (data.extractLsb' 0 5) := by
  have h7 : data.extractLsb' 7 1 = 0#1 := extractLsb'_of_extractLsb'_eq h 2 (by omega)
  have h6 : data.extractLsb' 6 1 = 0#1 := extractLsb'_of_extractLsb'_eq h 1 (by omega)
  have h5 : data.extractLsb' 5 1 = 0#1 := extractLsb'_of_extractLsb'_eq h 0 (by omega)
  simp [decodeRddigest, h7, h6, h5]

end

/-- The three illegal rows and the legal one split the operand bytes of opcode 0x4 among them (R62). -/
theorem rddigest_operand_cases (data : Byte) :
    data.extractLsb' 7 1 = 1#1 ∨ data.extractLsb' 6 2 = 0b01#2 ∨ data.extractLsb' 5 3 = 0b001#3 ∨
      data.extractLsb' 5 3 = 0#3 := by
  have hlt := data.isLt
  simp only [← BitVec.toNat_inj, BitVec.extractLsb'_toNat, Nat.shiftRight_eq_div_pow, BitVec.toNat_ofNat]
  omega

/-! ## Decoding inverts encoding (R62, R65) -/

/-- Decoding the word of an opcode and an operand byte is the opcode map of R62. -/
theorem decode_commandWord (op : BitVec 4) (data : Byte) :
    decode (commandWord op data) = .ok (decodeCommand (op ++ data)) := rfl

/-- A sequencer word with a phase other than 0 is not the idle word (R65). -/
theorem SeqWord.ne_zero_of_phase {w : SeqWord} (h : w.phase ≠ 0#3) : w ≠ 0#9 := by
  rintro rfl
  exact h rfl

/-- Settles O2: opcode and operand come back from a command word; an illegal operand is in its own row of `RDDIGEST`, and
of the micro-operations only `ROUND` has an operand. -/
theorem decodeInvertsEncode : Obligations.DecodeInvertsEncode := by
  intro i hwf
  cases i with
  | rddigest k =>
    have hrow : (0#3 ++ k : Byte).extractLsb' 5 3 = 0#3 := BitVec.extractLsb'_append_eq_left
    have hk : (0#3 ++ k : Byte).extractLsb' 0 5 = k := BitVec.extractLsb'_append_eq_right
    simp [encode, decode_commandWord, decodeCommand, decodeRddigest_of_000 hrow, hk]
  | rddigestIllegal1xx data =>
    simp [encode, decode_commandWord, decodeCommand, decodeRddigest_of_1xx (beq_iff_eq.mp hwf)]
  | rddigestIllegal01x data =>
    simp [encode, decode_commandWord, decodeCommand, decodeRddigest_of_01x (beq_iff_eq.mp hwf)]
  | rddigestIllegal001 data =>
    simp [encode, decode_commandWord, decodeCommand, decodeRddigest_of_001 (beq_iff_eq.mp hwf)]
  | load | fold | pad2 => rfl
  | round t =>
    have hne : (2#3 ++ t : SeqWord) ≠ 0#9 := SeqWord.ne_zero_of_phase (by simp)
    simp [encode, sequencerWord, decode, decodeSequencer, hne]
  | _ => simp [encode, decode_commandWord, decodeCommand]

/-! ## Encoding inverts decoding (R62, R65) -/

/-- The operand of a `RDDIGEST` word is kept, in each of its four rows (R62, R67). -/
theorem encode_decodeRddigest (data : Byte) :
    encode (decodeRddigest data) = commandWord 0x4 data ∧ (decodeRddigest data).WellFormed = true := by
  obtain h | h | h | h := rddigest_operand_cases data
  · rw [decodeRddigest_of_1xx h]
    exact ⟨rfl, beq_iff_eq.mpr h⟩
  · rw [decodeRddigest_of_01x h]
    exact ⟨rfl, beq_iff_eq.mpr h⟩
  · rw [decodeRddigest_of_001 h]
    exact ⟨rfl, beq_iff_eq.mpr h⟩
  · have hparts : data.extractLsb' 5 3 ++ data.extractLsb' 0 5 = data := extractLsb'_append_low (m := 3) (n := 5) data
    rw [decodeRddigest_of_000 h, encode, ← h, hparts]
    exact ⟨rfl, rfl⟩

/-- What a command word decodes to is well formed and encodes to the word (R62). -/
theorem encode_decodeCommand (w : CommandWord) :
    encode (decodeCommand w) = .command w ∧ (decodeCommand w).WellFormed = true := by
  rw [← commandWord_op_data w]
  unfold decodeCommand
  split
  case h_5 hop =>
    rw [hop]
    exact encode_decodeRddigest w.data
  case h_16 =>
    -- The arms before it leave only the opcode 0xF.
    have hop : w.op = 0xF#4 := by
      simp only [imp_false] at *
      bv_omega
    rw [hop]
    exact ⟨rfl, rfl⟩
  all_goals
    rename_i hop
    rw [hop]
    exact ⟨rfl, rfl⟩

/-- What a sequencer word decodes to is well formed and encodes to the word (R65). -/
theorem encode_of_decodeSequencer {w : SeqWord} {i : Instr} (h : decodeSequencer w = .ok i) :
    encode i = .sequencer w ∧ i.WellFormed = true := by
  rw [← sequencerWord_phase_t w]
  unfold decodeSequencer at h
  split_ifs at h with h0 hload hround hfold hpad2 <;> cases h
  · rw [hload.1, hload.2]
    exact ⟨rfl, rfl⟩
  · rw [hround]
    exact ⟨rfl, rfl⟩
  · rw [hfold.1, hfold.2]
    exact ⟨rfl, rfl⟩
  · rw [hpad2.1, hpad2.2]
    exact ⟨rfl, rfl⟩

/-- Settles O3: one format at a time. -/
theorem encodeInvertsDecode : Obligations.EncodeInvertsDecode := by
  intro w i h
  cases w with
  | command w =>
    obtain rfl := Except.ok.inj h
    exact encode_decodeCommand w
  | sequencer w => exact encode_of_decodeSequencer h

/-! ## The rows of the opcode table (R62) -/

/-- A field that the mask covers is the same in a word of the row and in the row's value. -/
theorem OpcodeRow.field_of_holds {name : String} {v w : CommandWord} {mask : Nat}
    (h : (OpcodeRow.mk name (.command v) mask).holds (.command w) = true) (k n : Nat)
    (hmask : (BitVec.ofNat 12 mask).extractLsb' k n = BitVec.allOnes n) : w.extractLsb' k n = v.extractLsb' k n := by
  have hv : w &&& BitVec.ofNat 12 mask = v := beq_iff_eq.mp h
  rw [← hv, BitVec.extractLsb'_and, hmask, BitVec.and_allOnes]

/-- The operand's bits that the mask covers. -/
theorem OpcodeRow.operand_of_holds {name : String} {v w : CommandWord} {mask : Nat}
    (h : (OpcodeRow.mk name (.command v) mask).holds (.command w) = true) (k n : Nat) (hk : k + n ≤ 8)
    (hmask : (BitVec.ofNat 12 mask).extractLsb' k n = BitVec.allOnes n) :
    w.data.extractLsb' k n = v.extractLsb' k n :=
  (BitVec.extractLsb'_extractLsb'_of_le hk).trans (OpcodeRow.field_of_holds h k n hmask)

/-- A well-formed instruction's word lies in the instruction's own row (R62, R65): the family `Laws.EncodesInRow`. -/
theorem holds_encode : ∀ i : Instr, i.WellFormed = true → i.row.holds (encode i) = true
  | .nop data => Laws.EncodesInRow.nop data
  | .init data => Laws.EncodesInRow.init data
  | .update b => Laws.EncodesInRow.update b
  | .final data => Laws.EncodesInRow.final data
  | .rddigest k => Laws.EncodesInRow.rddigest k
  | .rdstat data => Laws.EncodesInRow.rdstat data
  | .reserved6 data => Laws.EncodesInRow.reserved6 data
  | .reserved7 data => Laws.EncodesInRow.reserved7 data
  | .reserved8 data => Laws.EncodesInRow.reserved8 data
  | .reserved9 data => Laws.EncodesInRow.reserved9 data
  | .reservedA data => Laws.EncodesInRow.reservedA data
  | .reservedB data => Laws.EncodesInRow.reservedB data
  | .reservedC data => Laws.EncodesInRow.reservedC data
  | .reservedD data => Laws.EncodesInRow.reservedD data
  | .reservedE data => Laws.EncodesInRow.reservedE data
  | .reservedF data => Laws.EncodesInRow.reservedF data
  | .rddigestIllegal1xx data => Laws.EncodesInRow.rddigestIllegal1xx data
  | .rddigestIllegal01x data => Laws.EncodesInRow.rddigestIllegal01x data
  | .rddigestIllegal001 data => Laws.EncodesInRow.rddigestIllegal001 data
  | .load => Laws.EncodesInRow.load
  | .round t => Laws.EncodesInRow.round t
  | .fold => Laws.EncodesInRow.fold
  | .pad2 => Laws.EncodesInRow.pad2

/-- A command word lies in the row of the command it decodes to (R62). -/
theorem holds_decodeCommand (w : CommandWord) : (decodeCommand w).row.holds (.command w) = true := by
  obtain ⟨henc, hwf⟩ := encode_decodeCommand w
  have h := holds_encode _ hwf
  rwa [henc] at h

/-- Opcode 0x4 is `RDDIGEST`, in one of its four rows (R62). -/
theorem decodeCommand_of_op_rddigest {w : CommandWord} (h : w.op = 0x4#4) : decodeCommand w = decodeRddigest w.data := by
  simp only [decodeCommand, h]

/-- A command word lies in no other row: every row of commands fixes the opcode, those of `RDDIGEST` also the operand's top
bits (R62). -/
theorem row_decodeCommand_of_holds {i : Instr} {w : CommandWord} (h : i.row.holds (.command w) = true) :
    (decodeCommand w).row = i.row := by
  cases i with
  | load | round | fold | pad2 => cases h
  | rddigest =>
    rw [decodeCommand_of_op_rddigest (OpcodeRow.field_of_holds h 8 4 rfl),
      decodeRddigest_of_000 (OpcodeRow.operand_of_holds h 5 3 (by omega) rfl)]
    rfl
  | rddigestIllegal1xx =>
    rw [decodeCommand_of_op_rddigest (OpcodeRow.field_of_holds h 8 4 rfl),
      decodeRddigest_of_1xx (OpcodeRow.operand_of_holds h 7 1 (by omega) rfl)]
    rfl
  | rddigestIllegal01x =>
    rw [decodeCommand_of_op_rddigest (OpcodeRow.field_of_holds h 8 4 rfl),
      decodeRddigest_of_01x (OpcodeRow.operand_of_holds h 6 2 (by omega) rfl)]
    rfl
  | rddigestIllegal001 =>
    rw [decodeCommand_of_op_rddigest (OpcodeRow.field_of_holds h 8 4 rfl),
      decodeRddigest_of_001 (OpcodeRow.operand_of_holds h 5 3 (by omega) rfl)]
    rfl
  | _ =>
    have hop := OpcodeRow.field_of_holds h 8 4 rfl
    simp [decodeCommand, CommandWord.op, hop, Instr.row]

/-- Every row of the table is the row of an instruction. -/
theorem exists_instr_of_mem_opcodeRows {row : OpcodeRow} (h : row ∈ opcodeRows) : ∃ i : Instr, i.row = row := by
  simp only [opcodeRows, ← List.map_append] at h
  obtain ⟨i, -, hi⟩ := List.mem_map.mp h
  exact ⟨i, hi⟩

/-- Every instruction's row is in the table. -/
theorem row_mem_opcodeRows (i : Instr) : i.row ∈ opcodeRows := by
  cases i <;> simp [opcodeRows, Instr.row]

/-- The rows of the table that hold a command word are its own (R62). -/
theorem holds_command_iff {row : OpcodeRow} (hrow : row ∈ opcodeRows) (w : CommandWord) :
    row.holds (.command w) = true ↔ row = (decodeCommand w).row := by
  obtain ⟨i, rfl⟩ := exists_instr_of_mem_opcodeRows hrow
  refine ⟨fun h => (row_decodeCommand_of_holds h).symm, fun h => ?_⟩
  rw [h]
  exact holds_decodeCommand w

/-- The table names each row once. -/
theorem opcodeRows_nodup : opcodeRows.Nodup := by decide

/-- Settles O4: only the word's own row holds it, and the table has that row once. -/
theorem commandWordMatchesExactlyOneRow : Obligations.CommandWordMatchesExactlyOneRow := by
  refine fun w => ⟨?_, Machine.decodeCommand_isCommand w⟩
  calc opcodeRows.filter (fun row => row.holds (.command w))
      = opcodeRows.filter (fun row => row == (decodeCommand w).row) :=
        List.filter_congr fun row hrow => Bool.eq_iff_iff.mpr ((holds_command_iff hrow w).trans beq_iff_eq.symm)
    _ = [(decodeCommand w).row] := by
        rw [List.filter_beq, List.count_eq_one_of_mem opcodeRows_nodup (row_mem_opcodeRows _), List.replicate_one]

/-- Settles O1: the words of the tables, decoded one by one. -/
theorem decodesWordsOfTheTables : Obligations.DecodesWordsOfTheTables := by
  unfold Obligations.DecodesWordsOfTheTables
  decide

end Sys2Proof

namespace Sys2Proof.Machine

/-! ## Digest bytes and issued commands (R73, R61) -/

/-- Byte `k` of the serialised state (R73). -/
theorem serialise_getElem (h : HashState) (k : Nat) (hk : k < 32) :
    (serialise h)[k] = digestByte h (BitVec.ofNat 5 k) := by
  have hidx : BitVec.ofFin (⟨k, hk⟩ : Fin (2 ^ 5)) = BitVec.ofNat 5 k :=
    BitVec.eq_of_toNat_eq (Nat.mod_eq_of_lt hk).symm
  rw [← hidx]
  simp [serialise]

/-- Settles O11: byte `4i + j` of the digest is the digest byte of that index. -/
theorem digestIsBigEndian : Obligations.DigestIsBigEndian := by
  intro h i j
  exact (serialise_getElem h _ (by omega)).trans (digestByte_ofNat h i.val j.val i.isLt j.isLt)

/-- Settles O22: the step runs what the ready word decodes to. -/
theorem stepIssuesAReadyCommand : Obligations.StepIssuesAReadyCommand := by
  intro s w i rest hl hin hr hd
  obtain rfl := Except.ok.inj hd
  exact step_command hl hin hr

end Sys2Proof.Machine
end

section
/-! PROOF. The 32-bit primitives (40_primitives.md R80 to R91): what a rotation and a shift do to each bit, and that the
sigmas built from them are linear over xor. -/

namespace Sys2Proof.Machine

/-! ## Rotation and shift, bit by bit (R82, R83) -/

/-- R82's formula is the library's rotation; at 32 its amount is reduced to 0. -/
theorem rotr_eq_rotateRight (x : Word) (n : Fin 33) : rotr x n = x.rotateRight n.val := by
  unfold rotr
  split
  next h => obtain h | h := h <;> simp [h, BitVec.rotateRight_def]
  next h => rw [BitVec.rotateRight_def, Nat.mod_eq_of_lt (by omega)]

/-- A rotation moves bit `(i + n) mod 32` to bit `i` (R82). -/
theorem getLsbD_rotr (x : Word) (n : Fin 33) {i : Nat} (hi : i < 32) :
    (rotr x n).getLsbD i = x.getLsbD ((i + n.val) % 32) := by
  rw [rotr_eq_rotateRight, BitVec.getLsbD_rotateRight, Bool.cond_decide]
  split
  next h =>
    congr 1
    omega
  next h =>
    have hwrap : i - (32 - n.val % 32) = (i + n.val) % 32 := by omega
    simp [hi, hwrap]

/-- A rotation by 0 or 32 moves nothing (R82). -/
theorem rotr_eq_self (x : Word) {n : Fin 33} (h : n.val = 0 ∨ n.val = 32) : rotr x n = x := if_pos h

/-- Settles O6, bit by bit. -/
theorem rotateMovesEveryBit : Obligations.RotateMovesEveryBit := fun x n =>
  ⟨fun _ hi => getLsbD_rotr x n hi, rotr_eq_self x⟩

/-- A shift moves bit `i + n` to bit `i`; above bit 31 there are zeros (R83). -/
theorem getLsbD_shr (x : Word) (n i : Nat) : (shr x n).getLsbD i = x.getLsbD (i + n) := by
  rw [shr, BitVec.getLsbD_ushiftRight, Nat.add_comm]

/-- Settles O7: the bits from 32 on read as 0. -/
theorem shiftDiscardsBits : Obligations.ShiftDiscardsBits := by
  intro x n i _
  rw [getLsbD_shr]
  split
  · rfl
  · exact BitVec.getLsbD_of_ge x _ (by omega)

/-! ## Linearity over xor (R91) -/

/-- A function on words that keeps xor. -/
def XorLinear (f : Word → Word) : Prop := ∀ x y, f (x ^^^ y) = f x ^^^ f y

/-- A function that keeps xor keeps 0, as `0 = 0 ^^^ 0`. -/
theorem XorLinear.map_zero {f : Word → Word} (hf : XorLinear f) : f 0 = 0 := by
  simpa using hf 0 0

/-- The xor of two functions that keep xor keeps it too. -/
theorem XorLinear.xor {f g : Word → Word} (hf : XorLinear f) (hg : XorLinear g) : XorLinear fun x => f x ^^^ g x := by
  intro x y
  simp only [hf x y, hg x y]
  ac_rfl

/-- Each result bit of a rotation is one operand bit. -/
theorem rotr_xorLinear (n : Fin 33) : XorLinear fun x => rotr x n := by
  intro x y
  apply BitVec.eq_of_getLsbD_eq
  intro i hi
  simp only [BitVec.getLsbD_xor, getLsbD_rotr _ _ hi]

/-- Each result bit of a shift is one operand bit or 0. -/
theorem shr_xorLinear (n : Nat) : XorLinear fun x => shr x n := by
  intro x y
  apply BitVec.eq_of_getLsbD_eq
  intro i _
  simp only [BitVec.getLsbD_xor, getLsbD_shr]

theorem bigSigma0_xorLinear : XorLinear bigSigma0 :=
  ((rotr_xorLinear 2).xor (rotr_xorLinear 13)).xor (rotr_xorLinear 22)

theorem bigSigma1_xorLinear : XorLinear bigSigma1 :=
  ((rotr_xorLinear 6).xor (rotr_xorLinear 11)).xor (rotr_xorLinear 25)

theorem smallSigma0_xorLinear : XorLinear smallSigma0 :=
  ((rotr_xorLinear 7).xor (rotr_xorLinear 18)).xor (shr_xorLinear 3)

theorem smallSigma1_xorLinear : XorLinear smallSigma1 :=
  ((rotr_xorLinear 17).xor (rotr_xorLinear 19)).xor (shr_xorLinear 10)

/-- Each of the four sigmas keeps xor (R91). -/
theorem sigma_xorLinear : ∀ f ∈ [bigSigma0, bigSigma1, smallSigma0, smallSigma1], XorLinear f := by
  simp [bigSigma0_xorLinear, bigSigma1_xorLinear, smallSigma0_xorLinear, smallSigma1_xorLinear]

/-- Choose is not linear: `ch 1 0 0 ^^^ ch 0 1 0` is 0, and `ch 1 1 0` is 1. -/
theorem ch_not_linear :
    ¬ ∀ e f g e' f' g' : Word, ch (e ^^^ e') (f ^^^ f') (g ^^^ g') = ch e f g ^^^ ch e' f' g' :=
  fun h => absurd (h 1 0 0 0 1 0) (by decide)

/-- Majority is not linear: `maj 1 0 0 ^^^ maj 0 1 0` is 0, and `maj 1 1 0` is 1. -/
theorem maj_not_linear :
    ¬ ∀ a b c a' b' c' : Word, maj (a ^^^ a') (b ^^^ b') (c ^^^ c') = maj a b c ^^^ maj a' b' c' :=
  fun h => absurd (h 1 0 0 0 1 0) (by decide)

/-- Settles O9: rotate and shift keep xor, so do their xors, and bit 0 shows that choose and majority do not. -/
theorem sigmasAreLinear : Obligations.SigmasAreLinear :=
  ⟨fun x y n => ⟨rotr_xorLinear n x y, (rotr_xorLinear n).map_zero⟩,
    fun x y n => ⟨shr_xorLinear n x y, (shr_xorLinear n).map_zero⟩,
    fun f hf x y => ⟨sigma_xorLinear f hf x y, (sigma_xorLinear f hf).map_zero⟩,
    ch_not_linear, maj_not_linear⟩

/-! ## Addition, choose and majority (R80, R84, R85) -/

/-- Settles O5: `add32` is the addition of bit vectors. -/
theorem add32WrapsModulo : Obligations.Add32WrapsModulo := fun x y z =>
  ⟨BitVec.toNat_add x y, BitVec.add_comm x y, BitVec.add_assoc x y z⟩

/-- A result bit of choose, from the three operand bits (R84). -/
theorem getLsbD_ch (e f g : Word) {i : Nat} (hi : i < 32) :
    (ch e f g).getLsbD i = if e.getLsbD i then f.getLsbD i else g.getLsbD i := by
  simp only [ch, BitVec.getLsbD_xor, BitVec.getLsbD_and, BitVec.getLsbD_not, hi]
  cases e.getLsbD i <;> simp

/-- A result bit of majority, from the three operand bits (R85). -/
theorem getLsbD_maj (a b c : Word) (i : Nat) :
    (maj a b c).getLsbD i = decide (2 ≤ [a.getLsbD i, b.getLsbD i, c.getLsbD i].count true) := by
  have htable : ∀ p q r : Bool, ((p && q) ^^ (p && r) ^^ (q && r)) = decide (2 ≤ [p, q, r].count true) := by decide
  simp only [maj, BitVec.getLsbD_xor, BitVec.getLsbD_and, htable]

/-- Settles O8, from the operands' bits. -/
theorem chooseAndMajorityBitwise : Obligations.ChooseAndMajorityBitwise := fun a b c i hi =>
  ⟨getLsbD_ch a b c hi, getLsbD_maj a b c i⟩

end Sys2Proof.Machine
end

section
/-! PROOF. The padder unit (41_padder.md R100 to R110): the layout of the padded message and what it determines, the commands
`UPDATE` and `FINAL` and the micro-operation `PAD2` that build its Blocks, and the frames of the instructions that write the
datapath registers. -/

namespace Sys2Proof.Machine

/-! ## The padded message (R100, R102, R105) -/

/-- Settles O12: `(l + 65 + 511) / 512` is the quotient of `l + 65` by 512, rounded up. -/
theorem paddedLengthIsSmallest : Obligations.PaddedLengthIsSmallest := by
  intro l
  refine ⟨Nat.mul_mod_right _ _, ?_, fun p hp hle => ?_⟩ <;> unfold paddedLength <;> omega

/-- `pad` answers the padded Blocks exactly where `L` has a 64-bit form (R100, R105). -/
theorem pad_eq_ok_iff {m : List Byte} {blocks : List Block} :
    pad m = .ok blocks ↔
      m.length < 2 ^ 61 ∧ blocks = (List.range (paddedLength (bitLength m) / 512)).map (paddedBlock m) := by
  have hbound : bitLength m < 2 ^ 64 ↔ m.length < 2 ^ 61 := by unfold bitLength; omega
  rw [pad, ← hbound]
  split
  next h => simp only [h, true_and, Except.ok.injEq, eq_comm]
  next h => simp only [h, false_and, reduceCtorEq]

/-- Settles O13: `L = 8 · length` has a 64-bit form exactly below `2^61` bytes. -/
theorem padFailsOnlyWhenTooLarge : Obligations.PadFailsOnlyWhenTooLarge := by
  refine fun m => ⟨fun h => if_neg ?_, fun h => ⟨_, pad_eq_ok_iff.mpr ⟨h, rfl⟩⟩⟩
  unfold bitLength
  omega

/-- The Blocks hold `Q` full message Blocks and one or two more (R106). -/
theorem paddedLength_bitLength (m : List Byte) :
    paddedLength (bitLength m) = 512 * (m.length / 64 + if m.length % 64 ≤ 55 then 1 else 2) := by
  unfold paddedLength bitLength
  split <;> omega

section
variable {m : List Byte} {blocks : List Block}

/-- How many Blocks the padded message has (R105). -/
theorem length_of_pad (h : pad m = .ok blocks) : 512 * blocks.length = paddedLength (bitLength m) := by
  obtain ⟨-, rfl⟩ := pad_eq_ok_iff.mp h
  rw [List.length_map, List.length_range]
  exact Nat.mul_div_cancel' (Nat.dvd_of_mod_eq_zero (paddedLengthIsSmallest _).1)

/-- The Blocks have room for the message, 0x80 and the length field (R102). -/
theorem room_of_pad (h : pad m = .ok blocks) : m.length + 9 ≤ 64 * blocks.length := by
  obtain ⟨-, hroom, -⟩ := paddedLengthIsSmallest (bitLength m)
  rw [← length_of_pad h] at hroom
  unfold bitLength at hroom
  omega

/-- Where the padded message ends, in bytes (R104). -/
theorem paddedLength_div_eight_of_pad (h : pad m = .ok blocks) :
    paddedLength (bitLength m) / 8 = 64 * blocks.length := by
  rw [← length_of_pad h]
  omega

/-- Block `q` of the padded message (R105). -/
theorem getElem_of_pad (h : pad m = .ok blocks) {q : Nat} (hq : q < blocks.length) : blocks[q] = paddedBlock m q := by
  obtain ⟨-, rfl⟩ := pad_eq_ok_iff.mp h
  simp

/-- Byte `i` of the padded message's Blocks (R104, R105). -/
theorem bytes_getElem?_of_pad (h : pad m = .ok blocks) {i : Nat} (hi : i < 64 * blocks.length) :
    (blocks.flatMap Vector.toList)[i]? = some (paddedByte m i) := by
  have hq : i / 64 < blocks.length := by omega
  have hj : i % 64 < 64 := by omega
  calc (blocks.flatMap Vector.toList)[i]?
      = (blocks.flatMap Vector.toList)[64 * (i / 64) + i % 64]? := by rw [Nat.div_add_mod]
    _ = some blocks[i / 64][i % 64] := blocksBytes_getElem? blocks _ _ hq hj
    _ = some (paddedByte m i) := by rw [getElem_of_pad h hq, paddedBlock_getElem, Nat.div_add_mod]

end

/-- Settles O15: the Block count from `P`, and below `64Q` every byte is the message's. -/
theorem padBlockCount : Obligations.PadBlockCount := by
  intro m blocks h
  have hlen := (length_of_pad h).trans (paddedLength_bitLength m)
  refine ⟨by omega, fun q hq => ?_⟩
  have hqb : q < blocks.length := by omega
  refine ⟨paddedBlock m q, by rw [List.getElem?_eq_getElem hqb, getElem_of_pad h hqb], ?_⟩
  refine List.ext_getElem (by simp; omega) fun j hj _ => ?_
  rw [Vector.getElem_toList, paddedBlock_getElem]
  exact paddedByte_of_getElem? (by simp)

/-! ## The layout of the padded message (R104, R110) -/

/-- The `n` low bytes of a bit vector, the highest first, are its value modulo `256^n` (R7, R71). -/
theorem beNat_bytes {w : Nat} (v : BitVec w) (n : Nat) :
    beNat ((List.range n).map fun k => v.extractLsb' (8 * (n - (k + 1))) 8) = v.toNat % 256 ^ n := by
  induction n with
  | zero => simp [beNat, Nat.mod_one]
  | succ n ih =>
    have hpow : 2 ^ (8 * n) = 256 ^ n := Nat.pow_mul 2 8 n
    rw [List.range_succ_eq_map, List.map_cons, List.map_map, beNat]
    simp only [Function.comp_def, Nat.succ_eq_add_one, Nat.add_sub_add_right, ih, List.length_map, List.length_range,
      BitVec.extractLsb'_toNat, Nat.shiftRight_eq_div_pow, Nat.sub_zero, hpow]
    rw [Nat.pow_succ (n := 256), Nat.mod_mul, Nat.add_comm, Nat.mul_comm]

section
variable {m : List Byte} {blocks : List Block}

/-- The last 64 bits of the padded message are the length field (R71, R104). -/
theorem drop_bytes_of_pad (h : pad m = .ok blocks) :
    (blocks.flatMap Vector.toList).drop (64 * blocks.length - 8) =
      (List.range 8).map fun k => (BitVec.ofNat 64 (bitLength m)).extractLsb' (8 * (8 - (k + 1))) 8 := by
  have hroom := room_of_pad h
  refine List.ext_getElem? fun k => ?_
  rw [List.getElem?_drop]
  by_cases hk : k < 8
  · have hat : 64 * blocks.length - 1 - (64 * blocks.length - 8 + k) = 8 - (k + 1) := by omega
    rw [bytes_getElem?_of_pad h (by omega), paddedByte_of_le (by omega), if_neg (by omega),
      paddedLength_div_eight_of_pad h, if_neg (by omega), hat]
    simp [hk]
  · rw [List.getElem?_eq_none (by rw [blocksBytes_length]; omega), List.getElem?_eq_none (by simp; omega)]

end

/-- Settles O14: byte by byte, and the length field by its big-endian value, which is below `2^64`. -/
theorem paddingHasTheStatedLayout : Obligations.PaddingHasTheStatedLayout := by
  intro m blocks h bytes
  have hroom := room_of_pad h
  have hbytes : bytes.length = 64 * blocks.length := blocksBytes_length blocks
  have hbyte : ∀ i, i < 64 * blocks.length → bytes[i]? = some (paddedByte m i) := fun i => bytes_getElem?_of_pad h
  refine ⟨?_, by omega, ?_, ?_, fun i hi hi8 => ?_, ?_⟩
  · rw [hbytes, ← bitLength, ← length_of_pad h]
    omega
  · refine List.ext_getElem (by rw [List.length_take]; omega) fun i _ hi => ?_
    have hmsg : bytes[i]? = some m[i] :=
      (hbyte i (by omega)).trans (congrArg some (paddedByte_of_getElem? (List.getElem?_eq_getElem hi)))
    rw [List.getElem_take]
    exact (List.getElem?_eq_some_iff.mp hmsg).2
  · rw [hbyte _ (by omega), paddedByte_of_le le_rfl, if_pos rfl]
  · rw [hbyte _ (by omega), paddedByte_of_le (by omega), if_neg (by omega),
      paddedLength_div_eight_of_pad h, if_pos (by omega)]
  · obtain ⟨hm, -⟩ := pad_eq_ok_iff.mp h
    rw [hbytes, drop_bytes_of_pad h, beNat_bytes, BitVec.toNat_ofNat, bitLength]
    omega

/-- Settles O16: the length field gives the message's length, and the message is that many bytes from the start. -/
theorem padIsInjective : Obligations.PadIsInjective := by
  intro m m' blocks h h'
  obtain ⟨-, -, htake, -, -, hfield⟩ := paddingHasTheStatedLayout m blocks h
  obtain ⟨-, -, htake', -, -, hfield'⟩ := paddingHasTheStatedLayout m' blocks h'
  have hlen : m.length = m'.length := by omega
  rw [← htake, hlen, htake']

/-! ## `UPDATE`, `FINAL` and `PAD2` (R101, R103, R107) -/

@[simp] theorem State.respond_len (s : State) (v : Byte) : (s.respond v).len = s.len := rfl

@[simp] theorem State.finalise_len (s : State) : s.finalise.len = s.len := by
  simp only [State.len_eq, State.finalise_lenHi]

/-- An accepted command that its mode allows has its effect (R150). -/
theorem unlessHeld_inMode {s : State} {m : Mode} (hm : s.mode = m) (hb : m ≠ .busy) (effect : State) :
    unlessHeld s (s.inMode m effect) = .next effect := by
  rw [unlessHeld_eq, if_neg (by rwa [hm]), State.inMode_of_eq hm]

/-- `UPDATE` in `ABSORB` below the largest length absorbs its byte (R101). -/
theorem exec_update_of_absorb {s : State} (hm : s.mode = .absorb) (hl : s.len ≠ maxLen) (b : Byte) :
    exec (.update b) s = .next ((s.absorbByte b).respond 0) := by
  rw [exec, execUpdate, unlessHeld_inMode hm (by decide), State.updateByte, if_neg hl]

/-- `FINAL` in `ABSORB` finalises the message (R103). -/
theorem exec_final_of_absorb {s : State} (hm : s.mode = .absorb) (data : Byte) :
    exec (.final data) s = .next (s.finalise.respond 0) := by
  rw [exec, execFinal, unlessHeld_inMode hm (by decide)]

/-- Settles O30: the absorbed byte, its count, and the control registers by whether it fills the block. -/
theorem updateAbsorbsTheByte : Obligations.UpdateAbsorbsTheByte := by
  intro b s hm hl
  refine ⟨_, exec_update_of_absorb hm hl b, fun j => ?_, ?_, rfl, ?_, ?_⟩
  · rw [← State.fill_toNat, State.respond_blk, State.absorbByte_blk]
    exact (Vector.getElem_set ..).trans (if_congr eq_comm rfl rfl)
  · rw [State.respond_len, State.absorbByte_len_toNat hl]
  · intro hf
    obtain ⟨hmode, hphase, hnext⟩ := State.absorbByte_control_of_full (s.fill_eq_63_iff.mpr hf) b
    exact ⟨hnext, hphase, hmode⟩
  · intro hf
    obtain ⟨hmode, hphase, hnext⟩ := State.absorbByte_control_of_not_full (mt s.fill_eq_63_iff.mp hf) b
    exact ⟨hnext, hphase, hmode.trans hm⟩

/-- Byte `j` of the block `FINAL` leaves (R103). -/
theorem State.finalise_blk_getElem (s : State) (j : Nat) (hj : j < 64) :
    s.finalise.blk[j] =
      if s.fill.toNat ≤ 55 ∧ 56 ≤ j then s.len.extractLsb' (8 * (63 - j)) 8 else (padFrom s.blk s.fill)[j] := by
  by_cases hf : s.fill.toNat ≤ 55
  · simp only [State.finalise_of_short hf, writeLength, memWrite_length_getElem, hf, true_and]
  · simp only [State.finalise_of_long hf, hf, false_and, if_false]

/-- Settles O32: where the length field is written, it lies past the waiting bytes and 0x80. -/
theorem finalPadsTheBlock : Obligations.FinalPadsTheBlock := by
  intro data s hm
  refine ⟨_, exec_final_of_absorb hm data, fun j => ?_, ?_, s.finalise_phase, s.finalise_mode, s.finalise_len, rfl⟩
  · rw [← State.fill_toNat, State.respond_blk]
    refine (s.finalise_blk_getElem j.val j.isLt).trans ?_
    by_cases hfield : s.fill.toNat ≤ 55 ∧ 56 ≤ j.val
    · rw [if_pos hfield, if_neg (by omega), if_neg (by omega), if_pos hfield]
    · rw [if_neg hfield, if_neg hfield, padFrom_getElem]
      rfl
  · rw [← State.fill_toNat, State.respond_next, State.finalise_next]

/-- Settles O41: the second padding block, byte by byte. -/
theorem pad2BuildsTheLengthBlock : Obligations.Pad2BuildsTheLengthBlock := by
  intro s hm hp ht
  refine ⟨_, State.ifEnabled_of_enabled (s.enabled_pad2.mpr ⟨hm, hp, ht⟩) _, rfl, fun j => ?_⟩
  refine (lengthBlock_getElem s.len j.val j.isLt).trans ?_
  by_cases h : j.val < 56
  · rw [if_pos h, if_neg (by omega)]
  · rw [if_neg h, if_pos (by omega)]

/-! ## Frames (R101, R103, R107, R123, R135, R137, R152) -/

/-- An absorbed byte is stored at the fill index only (R101). -/
theorem State.absorbByte_blk_getElem_of_ne (s : State) (b : Byte) {j : Nat} (hj : j < 64) (hne : j ≠ s.fill.toNat) :
    (s.absorbByte b).blk[j] = s.blk[j] := by
  simp only [State.absorbByte_blk]
  exact Vector.getElem_set_ne _ _ hne.symm

/-- `FINAL` keeps the waiting bytes (R103). -/
theorem State.finalise_blk_getElem_of_lt (s : State) {j : Nat} (hj : j < 64) (hlt : j < s.fill.toNat) :
    s.finalise.blk[j] = s.blk[j] := by
  rw [State.finalise_blk_getElem, if_neg (by omega), padFrom_getElem, if_pos hlt]

/-- Settles O42: each command is held, raises its exception, or has its effect, which is split as its rule splits it. -/
theorem frameOfContextCommands : Obligations.FrameOfContextCommands := by
  refine ⟨fun b s t h => ?_, fun data s t h => ?_, fun data s t h => ?_⟩
  · obtain ⟨-, rfl⟩ | ⟨-, -, rfl⟩ | ⟨-, -, rfl⟩ | ⟨hm, hl, rfl⟩ := execUpdate_next h
    · exact ⟨rfl, fun _ _ => rfl, fun _ => rfl⟩
    · exact ⟨rfl, fun _ _ => rfl, fun _ => rfl⟩
    · exact ⟨rfl, fun _ _ => rfl, fun _ => rfl⟩
    · refine ⟨?_, fun j hj => s.absorbByte_blk_getElem_of_ne b j.isLt hj,
        fun hrefused => absurd hrefused (by simp [hm, hl])⟩
      by_cases hf : s.fill = 63
      · rw [State.absorbByte_of_full hf]
        rfl
      · rw [State.absorbByte_of_not_full hf]
        rfl
  · obtain ⟨-, rfl⟩ | ⟨-, -, rfl⟩ | ⟨hm, rfl⟩ := execFinal_next h
    · exact ⟨rfl, fun _ _ => rfl, fun _ => rfl⟩
    · exact ⟨rfl, fun _ _ => rfl, fun _ => rfl⟩
    · refine ⟨?_, fun j hj => s.finalise_blk_getElem_of_lt j.isLt hj, fun hne => absurd hm hne⟩
      by_cases hf : s.fill.toNat ≤ 55
      · rw [State.finalise_of_short hf]
        rfl
      · rw [State.finalise_of_long hf]
        rfl
  · obtain ⟨-, rfl⟩ | ⟨-, rfl⟩ := execInit_next h <;> rfl

/-- Settles O44: each micro-operation's one effect; a schedule step writes at most its own word. -/
theorem frameOfMicroOperations : Obligations.FrameOfMicroOperations := by
  refine ⟨fun s t h => ?_, fun u s t h => ?_, fun s t h => ?_, fun s t h => ?_⟩
  · obtain ⟨-, rfl⟩ := execLoad_next h
    exact ⟨rfl, fun i hi => (loadWords_getElem s.blk s.w i.val i.isLt).trans (if_neg (by omega))⟩
  · obtain ⟨-, rfl⟩ := execRound_next h
    exact ⟨rfl, fun i hi => scheduleStep_getElem_of_ne s.w u.toNat u.isLt i.val i.isLt (.inl hi),
      fun hu => if_neg (by omega)⟩
  · obtain ⟨-, ⟨-, rfl⟩ | ⟨-, rfl⟩ | ⟨-, rfl⟩⟩ := execFold_next h <;> rfl
  · obtain ⟨-, rfl⟩ := execPad2_next h
    rfl

end Sys2Proof.Machine
end

section
/-! PROOF. The scheduler unit (42_scheduler.md R120 to R127): the schedule's equations, its storage in a 16-word circular
buffer, and the micro-operation `LOAD`. -/

namespace Sys2Proof.Machine

/-! ## The schedule (R121, R122) -/

/-- Settles O17: the loaded words are the Block's bytes in big-endian order, and `add32` is `+`. -/
theorem expandFollowsTheRecurrence : Obligations.ExpandFollowsTheRecurrence := fun blk =>
  ⟨fun i => (expand_getElem_of_lt blk i.isLt).trans (blockWord_eq_append blk i.val i.isLt),
    fun _ h16 ht => expand_getElem_of_le blk h16 ht⟩

/-! ## The circular buffer (R127) -/

/-- The circular buffer's word at `t mod 16`. -/
def ringWord (ring : Vector Word 16) (t : Nat) : Word := ring[t % 16]'(Nat.mod_lt _ (by decide))

/-- Before any schedule step the buffer holds the Block's words (R121, R127). -/
theorem ringWord_ringLoad (blk : Block) {t : Nat} (ht : t < 16) : ringWord (ringLoad blk) t = blockWord blk t := by
  simp only [ringWord, ringLoad, Vector.getElem_ofFn, Nat.mod_eq_of_lt ht]

/-- A schedule step of index `n ≤ 15` writes nothing (R124). -/
theorem ringStep_of_lt (ring : Vector Word 16) {n : Nat} (hn : n < 16) : ringStep ring n = ring :=
  if_neg (by omega)

/-- A schedule step of index `n ≥ 16` writes the recurrence's word, read from the buffer (R122, R127). -/
theorem ringWord_ringStep_self (ring : Vector Word 16) {n : Nat} (h16 : 16 ≤ n) :
    ringWord (ringStep ring n) n =
      add32 (add32 (add32 (ringWord ring (n - 16)) (smallSigma0 (ringWord ring (n - 15)))) (ringWord ring (n - 7)))
        (smallSigma1 (ringWord ring (n - 2))) := by
  simp only [ringWord, ringStep, if_pos h16, Vector.getElem_set_self]

/-- A schedule step of index `n` keeps the words of every other place (R127). -/
theorem ringWord_ringStep_of_ne (ring : Vector Word 16) {n t : Nat} (h : n % 16 ≠ t % 16) :
    ringWord (ringStep ring n) t = ringWord ring t := by
  unfold ringStep
  split
  · exact Vector.getElem_set_ne _ _ h
  · rfl

/-- Before the schedule step of index `n` the circular buffer holds the Block's words, or the last sixteen before `n`
(R127). -/
def RingScheduled (blk : Block) (ring : Vector Word 16) (n : Nat) : Prop :=
  ∀ (t : Nat) (ht : t < 64), t < 16 ∨ t < n → n ≤ t + 16 → ringWord ring t = (expand blk)[t]

/-- The buffer with the Block's words is ready for index 0 (R121, R127). -/
theorem ringScheduled_ringLoad (blk : Block) : RingScheduled blk (ringLoad blk) 0 := by
  intro t ht hready _
  have h16 : t < 16 := by omega
  exact (ringWord_ringLoad blk h16).trans (expand_getElem_of_lt blk h16).symm

/-- The word a schedule step writes from the last sixteen is `expand`'s (R122, R127). -/
theorem RingScheduled.ringWord_ringStep {blk : Block} {ring : Vector Word 16} {n : Nat} (h : RingScheduled blk ring n)
    (h16 : 16 ≤ n) (hn : n < 64) : ringWord (ringStep ring n) n = (expand blk)[n] := by
  rw [ringWord_ringStep_self ring h16, h (n - 16) (by omega) (by omega) (by omega),
    h (n - 15) (by omega) (by omega) (by omega), h (n - 7) (by omega) (by omega) (by omega),
    h (n - 2) (by omega) (by omega) (by omega)]
  exact (expand_getElem_of_le blk h16 hn).symm

/-- The schedule step of index `n` makes the buffer ready for index `n + 1`: it overwrites `W[n-16]` only (R127). -/
theorem RingScheduled.step {blk : Block} {ring : Vector Word 16} {n : Nat} (h : RingScheduled blk ring n) :
    RingScheduled blk (ringStep ring n) (n + 1) := by
  intro t ht hready hlast
  by_cases h16 : n < 16
  · rw [ringStep_of_lt ring h16]
    exact h t ht (by omega) (by omega)
  · obtain rfl | hne := eq_or_ne t n
    · exact h.ringWord_ringStep (by omega) ht
    · rw [ringWord_ringStep_of_ne ring (by omega)]
      exact h t ht (by omega) (by omega)

/-- Every run of schedule steps leaves the buffer ready for the next (R127). -/
theorem ringScheduled_ringUpTo (blk : Block) (n : Nat) : RingScheduled blk (ringUpTo blk n) n := by
  induction n with
  | zero => exact ringScheduled_ringLoad blk
  | succ n ih => exact ih.step

/-- Settles O18: after the schedule step of index `t` the buffer's last word is `W[t]`. -/
theorem ringBufferComputesTheSchedule : Obligations.RingBufferComputesTheSchedule := fun blk t ht =>
  ringScheduled_ringUpTo blk (t + 1) t ht (.inr (by omega)) (by omega)

/-! ## `LOAD` (R123) -/

/-- Settles O38: the words below 16 are the Block's, the others are kept. -/
theorem loadTakesTheBlock : Obligations.LoadTakesTheBlock := by
  intro s hm hp ht
  refine ⟨_, State.ifEnabled_of_enabled (s.enabled_load.mpr ⟨hm, hp, ht⟩) _, rfl, fun i => ?_, fun i hi => ?_⟩
  · calc (loadWords s.blk s.w)[i.val] = blockWord s.blk i.val :=
          (loadWords_getElem s.blk s.w i.val (by omega)).trans (if_pos i.isLt)
      _ = _ := blockWord_eq_append s.blk i.val i.isLt
  · exact (loadWords_getElem s.blk s.w i.val i.isLt).trans (if_neg (by omega))

end Sys2Proof.Machine
end

section
/-! PROOF. The compressor unit (43_compressor.md R133 to R140): the function `compress`, the micro-operations `ROUND` and
`FOLD`, and the 66 steps of one block. -/

namespace Sys2Proof.Machine

/-! ## `compress` (R133, R134, R136) -/

/-- One round, with `T1` and `T2` written out (R134). -/
theorem roundOnce_eq (r : HashState) (k w : Word) :
    roundOnce r k w =
      let t1 := r[7] + bigSigma1 r[4] + ch r[4] r[5] r[6] + k + w
      let t2 := bigSigma0 r[0] + maj r[0] r[1] r[2]
      #v[t1 + t2, r[0], r[1], r[2], r[3] + t1, r[4], r[5], r[6]] := rfl

/-- Word `i` of the fold (R136). -/
theorem foldInto_getElem (state r : HashState) (i : Nat) (hi : i < 8) :
    (foldInto state r)[i] = state[i] + r[i] := by
  simp [foldInto, add32]

/-- `compress` folds the registers after 64 rounds into the state (R133, R136). -/
theorem compress_eq (state : HashState) (schedule : ScheduleWords) :
    compress state schedule = foldInto state (roundsUpTo schedule state 64) := by
  unfold compress
  rfl

/-- Settles O19: the registers are those of the model's round loop. -/
theorem compressIsRoundsThenFold : Obligations.CompressIsRoundsThenFold := by
  intro state schedule
  refine ⟨roundsUpTo schedule state, rfl, fun t ht => ?_, fun i => ?_⟩
  · exact (roundsUpTo_succ schedule state t ht).trans (roundOnce_eq _ _ _)
  · rw [compress_eq]
    exact foldInto_getElem state _ i.val i.isLt

/-! ## `ROUND` (R134, R135) -/

/-- `ROUND` where it is enabled (R135). -/
theorem exec_round_of_enabled {s : State} {u : BitVec 6} (hm : s.mode = .busy) (hp : s.phase = .round) (ht : s.t = u) :
    exec (.round u) s = .next { s with
      w := scheduleStep s.w u.toNat u.isLt
      r := roundOnce s.r (Config.K[u.toNat]'u.isLt) ((scheduleStep s.w u.toNat u.isLt)[u.toNat]'u.isLt)
      t := if u = 63 then 0 else u + 1
      phase := if u = 63 then .fold else .round } :=
  State.ifEnabled_of_enabled ((s.enabled_round u).mpr ⟨hm, hp, ht⟩) _

/-- Settles O39: the schedule step writes its one word, the round reads it, and the index counts on. -/
theorem roundComputesOneRound : Obligations.RoundComputesOneRound := by
  intro s u hm hp ht
  refine ⟨_, exec_round_of_enabled hm hp ht, rfl, fun j hj => ?_, fun n h16 hn hnu => ?_, roundOnce_eq _ _ _,
    fun hu => ⟨if_pos hu, if_pos hu⟩, fun hu => ⟨?_, if_neg hu⟩⟩
  · exact scheduleStep_getElem_of_ne s.w u.toNat u.isLt j.val j.isLt hj
  · subst hnu
    exact scheduleStep_getElem_self s.w u.toNat hn h16
  · simp only [if_neg hu]
    bv_omega

/-! ## `FOLD` (R136, R137) -/

/-- `FOLD` with a block to follow: the fold, and the control state by `NEXT` (R137). -/
theorem exists_exec_fold {s : State} (hm : s.mode = .busy) (hp : s.phase = .fold) (ht : s.t = 0) (hn : s.next ≠ .none) :
    ∃ t, exec .fold s = .next t ∧
      t = { s with h := foldInto s.h s.r, phase := t.phase, next := t.next, mode := t.mode } ∧
      (s.next = .absorb → t.phase = .idle ∧ t.next = .none ∧ t.mode = .absorb) ∧
      (s.next = .done → t.phase = .idle ∧ t.next = .none ∧ t.mode = .done) ∧
      (s.next = .pad2 → t.phase = .pad2 ∧ t.next = .pad2 ∧ t.mode = .busy) := by
  obtain ⟨t, hexec⟩ := exec_micro_next (i := .fold) rfl (s.enabled_fold.mpr ⟨hm, hp, ht⟩) hn
  refine ⟨t, hexec, ?_⟩
  obtain ⟨-, ⟨hnext, rfl⟩ | ⟨hnext, rfl⟩ | ⟨hnext, rfl⟩⟩ := execFold_next hexec
  all_goals simp [hnext, hm]

/-- Settles O40: the fold is element by element, and `N_NONE` is the fault of R137. -/
theorem foldAddsAndMovesOn : Obligations.FoldAddsAndMovesOn := by
  refine fun s hm hp ht => ⟨fun hn => ?_, fun hn t hexec => ?_⟩
  · obtain ⟨t, hexec, hframe, hcontrol⟩ := exists_exec_fold hm hp ht hn
    have hh : t.h = foldInto s.h s.r := by rw [hframe]
    refine ⟨t, hexec, by rw [hh]; exact hframe, fun i => ?_, hcontrol⟩
    rw [hh]
    exact foldInto_getElem s.h s.r i.val i.isLt
  · obtain ⟨-, ⟨hnext, -⟩ | ⟨hnext, -⟩ | ⟨hnext, -⟩⟩ := execFold_next hexec
    all_goals simp [hn] at hnext

/-! ## One block (R126, R140) -/

/-- With no inputs left a busy step is the enabled micro-operation's meaning (R10, R65). -/
theorem step_of_exec_quiet {i : Instr} {s t : State} (hl : s.Legal = true) (hm : s.mode = .busy) (hin : s.inputs = [])
    (hi : i.isCommand = false) (h : exec i { s with rsp := none } = .next t) : step s = .next t := by
  have hd : decode (.sequencer s.seq) = .ok i := decode_seq_of_exec (s := { s with rsp := none }) hi h
  obtain ⟨hquiet, -⟩ := stepRunsTheMicroOperation s i hl hm hd
  exact (hquiet hin).trans h

/-- Where no response is driven, the turn has none to clear (R61). -/
theorem State.clearRsp_of_none {s : State} (h : s.rsp = none) : ({ s with rsp := none } : State) = s := by
  rw [← h]

/-- The state before round `n` of the block that `s` is about to load, and for `n = 64` the one before its `FOLD`. -/
def State.beforeRound (s : State) (n : Nat) : State :=
  { s with
    blkTrace := s.blkTrace ++ [s.blk]
    w := scheduleUpTo (loadWords s.blk s.w) n
    r := roundsUpTo (expand s.blk) s.h n
    t := BitVec.ofNat 6 n
    phase := if n = 64 then .fold else .round
    rsp := none }

@[simp] theorem State.beforeRound_blk (s : State) (n : Nat) : (s.beforeRound n).blk = s.blk := rfl
@[simp] theorem State.beforeRound_lenHi (s : State) (n : Nat) : (s.beforeRound n).lenHi = s.lenHi := rfl
@[simp] theorem State.beforeRound_next (s : State) (n : Nat) : (s.beforeRound n).next = s.next := rfl
@[simp] theorem State.beforeRound_w (s : State) (n : Nat) :
    (s.beforeRound n).w = scheduleUpTo (loadWords s.blk s.w) n := rfl
@[simp] theorem State.beforeRound_r (s : State) (n : Nat) :
    (s.beforeRound n).r = roundsUpTo (expand s.blk) s.h n := rfl
@[simp] theorem State.beforeRound_h (s : State) (n : Nat) : (s.beforeRound n).h = s.h := rfl
@[simp] theorem State.beforeRound_mode (s : State) (n : Nat) : (s.beforeRound n).mode = s.mode := rfl
@[simp] theorem State.beforeRound_blkTrace (s : State) (n : Nat) :
    (s.beforeRound n).blkTrace = s.blkTrace ++ [s.blk] := rfl
@[simp] theorem State.beforeRound_rsp (s : State) (n : Nat) : (s.beforeRound n).rsp = none := rfl
@[simp] theorem State.beforeRound_inputs (s : State) (n : Nat) : (s.beforeRound n).inputs = s.inputs := rfl

/-- The schedule steps below `n` after `LOAD` make the schedule file ready for round `n` (R124, R126). -/
theorem scheduled_scheduleUpTo (blk : Block) (w : ScheduleWords) {n : Nat} (hn : n ≤ 64) :
    Scheduled blk (scheduleUpTo (loadWords blk w) n) n := by
  induction n with
  | zero => exact scheduled_loadWords blk w
  | succ n ih =>
    rw [scheduleUpTo_succ _ n hn]
    exact (ih (by omega)).step hn

/-- All 64 schedule steps after `LOAD` leave the Block's schedule, whatever the file held (R122, R126). -/
theorem scheduleUpTo_loadWords_eq_expand (blk : Block) (w : ScheduleWords) :
    scheduleUpTo (loadWords blk w) 64 = expand blk :=
  Vector.ext fun i hi => scheduled_scheduleUpTo blk w le_rfl ⟨i, hi⟩ (.inr hi)

section
variable {s : State} (hl : s.Legal = true) (hm : s.mode = .busy) (hin : s.inputs = [])
include hl hm

/-- The states of a block's rounds are legal (R31). -/
theorem State.legal_beforeRound (n : Nat) : (s.beforeRound n).Legal = true := by
  obtain ⟨-, hn, -, he⟩ := (State.legal_iff_of_busy hm).mp hl
  refine (State.legal_iff_of_busy (by exact hm)).mpr ⟨?_, hn, fun hp => ?_, he⟩
  · simp only [State.beforeRound]
    split <;> simp
  · by_cases h64 : n = 64
    · rw [h64]
      rfl
    · exact absurd (if_neg h64) hp

include hin

/-- `LOAD` leads to round 0 (R123). -/
theorem State.step_load_quiet (hp : s.phase = .load) : step s = .next (s.beforeRound 0) := by
  obtain ⟨-, -, ht, -⟩ := (State.legal_iff_of_busy hm).mp hl
  have hload : ({ s with rsp := none } : State).enabled .load = true :=
    (State.enabled_load _).mpr ⟨hm, hp, ht (by simp [hp])⟩
  exact step_of_exec_quiet (i := .load) hl hm hin rfl (State.ifEnabled_of_enabled hload _)

/-- `ROUND` of index `n` leads to round `n + 1`: the schedule word it makes is the Block's (R135, R140). -/
theorem State.step_beforeRound {n : Nat} (hn : n < 64) : step (s.beforeRound n) = .next (s.beforeRound (n + 1)) := by
  refine step_of_exec_quiet (i := .round (BitVec.ofNat 6 n)) (State.legal_beforeRound hl hm n) hm hin rfl ?_
  have hp : (s.beforeRound n).phase = .round := if_neg (by omega)
  refine (exec_round_of_enabled (s := s.beforeRound n) hm hp rfl).trans ?_
  have hindex : (BitVec.ofNat 6 n).toNat = n := by simp; omega
  have hlast : BitVec.ofNat 6 n = 63 ↔ n + 1 = 64 := by rw [← BitVec.toNat_inj, hindex]; simp
  have hword : (scheduleUpTo (loadWords s.blk s.w) (n + 1))[n] = (expand s.blk)[n] :=
    scheduled_scheduleUpTo s.blk s.w hn ⟨n, hn⟩ (.inr (Nat.lt_succ_self n))
  have ht : (if n + 1 = 64 then 0 else BitVec.ofNat 6 n + 1) = BitVec.ofNat 6 (n + 1) := by
    split
    · simp [*]
    · simp [BitVec.ofNat_add]
  simp only [State.beforeRound, hindex, hlast, ht, ← scheduleUpTo_succ _ n hn, hword, ← roundsUpTo_succ _ _ n hn]

/-- `LOAD` and the first `n` `ROUND`s (R126). -/
theorem State.run_to_beforeRound (hp : s.phase = .load) {n : Nat} (hn : n ≤ 64) :
    core.run (n + 1) s = .next (s.beforeRound n) := by
  induction n with
  | zero => exact run_succ_of_step (State.step_load_quiet hl hm hin hp) 0
  | succ n ih =>
    exact (run_add_of_next (ih (by omega)) 1).trans (run_succ_of_step (State.step_beforeRound hl hm hin hn) 0)

end

/-- Settles O53: `LOAD` and 64 rounds lead to the state before `FOLD`, whose registers are those `compress` folds. -/
theorem oneBlockIsCompress : Obligations.OneBlockIsCompress := by
  intro s hl hp hin
  have hm : s.mode = .busy := by
    obtain ⟨hbusy, -⟩ := s.legal_iff.mp hl
    exact hbusy.mpr (by simp [hp])
  have hl64 := State.legal_beforeRound hl hm 64
  have hm64 : (s.beforeRound 64).mode = .busy := (s.beforeRound_mode 64).trans hm
  obtain ⟨-, hn64, -, -⟩ := (State.legal_iff_of_busy hm64).mp hl64
  obtain ⟨t, hexec, hframe, habsorb, hdone, hpad2⟩ := exists_exec_fold hm64 rfl rfl hn64
  have hfold : step (s.beforeRound 64) = .next t := by
    refine step_of_exec_quiet (i := .fold) hl64 hm64 ((s.beforeRound_inputs 64).trans hin) rfl ?_
    rwa [State.clearRsp_of_none (s.beforeRound_rsp 64)]
  have hrun : core.run 66 s = .next t :=
    (run_add_of_next (State.run_to_beforeRound hl hm hin hp le_rfl) 1).trans (run_succ_of_step hfold 0)
  rw [State.beforeRound_next] at habsorb hdone hpad2
  refine ⟨t, hrun, ?_, ?_, ?_, ?_, ?_, fun h => ?_, fun h => ?_, fun h => ?_⟩
  · rw [hframe, compress_eq, State.beforeRound_h, State.beforeRound_r]
  · rw [hframe, State.beforeRound_w, scheduleUpTo_loadWords_eq_expand]
  · rw [hframe, State.beforeRound_blkTrace]
  · rw [hframe, State.beforeRound_blk]
  · rw [State.len_eq, hframe, State.beforeRound_lenHi, State.len_eq]
  · obtain ⟨-, -, hmode⟩ := habsorb h
    exact hmode
  · obtain ⟨-, -, hmode⟩ := hdone h
    exact hmode
  · obtain ⟨hphase, -, hmode⟩ := hpad2 h
    exact ⟨hmode, hphase⟩

end Sys2Proof.Machine
end

section
/-! PROOF. The host's commands one by one (44_commands.md R150 to R157): what a busy core holds, what each command that is not
a padder operation does, and what a response can show. -/

namespace Sys2Proof.Machine

/-! ## The hold (R150) -/

/-- While the core is busy, a held command's meaning leaves the state (R150 item 1). -/
theorem unlessHeld_of_busy {s : State} (hm : s.mode = .busy) (a : State) : unlessHeld s a = .next s := if_pos hm

/-- While the core is not busy, a command takes its effect (R150 item 1). -/
theorem unlessHeld_of_not_busy {s : State} (hm : s.mode ≠ .busy) (a : State) : unlessHeld s a = .next a := if_neg hm

/-- While the core is not busy, a command that the mode does not allow raises SequenceError (R150, R172). -/
theorem unlessHeld_inMode_of_ne {s : State} {m : Mode} (hb : s.mode ≠ .busy) (hm : s.mode ≠ m) (effect : State) :
    unlessHeld s (s.inMode m effect) = .next (s.raise .sequenceError) := by
  rw [unlessHeld_of_not_busy hb, State.inMode_of_ne hm]

/-- The opcodes of `NOP` and `RDSTAT` are those accepted while the core is busy (R150). -/
theorem acceptedWhileBusy_iff (w : CommandWord) : acceptedWhileBusy w = true ↔ w.op = 0x0#4 ∨ w.op = 0x5#4 := by
  simp [acceptedWhileBusy]

/-- When the core is ready for a command (R61). -/
theorem State.cmdReady_iff (s : State) (w : CommandWord) :
    s.cmdReady w = true ↔ s.mode ≠ .busy ∨ acceptedWhileBusy w = true := by
  simp [State.cmdReady]

/-- When a command is held (R61, R150). -/
theorem State.cmdReady_eq_false_iff (s : State) (w : CommandWord) :
    s.cmdReady w = false ↔ s.mode = .busy ∧ acceptedWhileBusy w = false := by
  simp [State.cmdReady]

/-- A command accepted while the core is busy changes no register: it is `NOP` or `RDSTAT` (R151, R156). -/
theorem exec_of_acceptedWhileBusy {w : CommandWord} (hw : acceptedWhileBusy w = true) (s : State) :
    ∃ v, exec (decodeCommand w) s = .next (s.respond v) := by
  obtain hop | hop := (acceptedWhileBusy_iff w).mp hw
  · exact ⟨0, by rw [decodeCommand, hop]; rfl⟩
  · exact ⟨s.status, by rw [decodeCommand, hop]; rfl⟩

/-- A held command is none of `NOP` and `RDSTAT`, and its meaning leaves the state (R150). -/
theorem exec_of_cmdReady_eq_false {s : State} {w : CommandWord} (h : s.cmdReady w = false) :
    exec (decodeCommand w) s = .next s := by
  obtain ⟨hm, hw⟩ := (s.cmdReady_eq_false_iff w).mp h
  obtain ⟨hne0, hne5⟩ : w.op ≠ 0x0#4 ∧ w.op ≠ 0x5#4 := by
    simpa [acceptedWhileBusy] using hw
  obtain ⟨henc, -⟩ := encode_decodeCommand w
  have hcommand := decodeCommand_isCommand w
  generalize decodeCommand w = i at henc hcommand
  cases i with
  | nop data =>
    obtain rfl := CoreWord.command.inj henc
    exact absurd (CommandWord.op_append _ _) hne0
  | rdstat data =>
    obtain rfl := CoreWord.command.inj henc
    exact absurd (CommandWord.op_append _ _) hne5
  | load | round | fold | pad2 => cases hcommand
  | _ => exact unlessHeld_of_busy hm _

/-- Settles O37: a command other than `NOP` and `RDSTAT` is held in `BUSY`, and its meaning there is the hold. -/
theorem busyHoldsCommands : Obligations.BusyHoldsCommands := by
  refine fun s w => ⟨?_, exec_of_cmdReady_eq_false⟩
  rw [s.cmdReady_eq_false_iff, ← Bool.not_eq_true, acceptedWhileBusy_iff, not_or]
  rfl

/-- Settles O24: with a quiet port a step only takes the pause and clears the response. -/
theorem waitingChangesNothing : Obligations.WaitingChangesNothing := by
  refine fun s hl hm => ⟨fun hin => ?_, fun rest hin => ?_⟩
  · rw [step_wait hl hm (.inl hin), hin, List.tail_nil]
  · rw [step_wait hl hm (.inr ⟨rest, hin⟩), hin, List.tail_cons]

/-! ## Commands accepted in every mode (R151, R152, R156) -/

/-- A command of an opcode accepted while the core is busy is ready in every mode (R61, R150). -/
theorem State.cmdReady_of_op (s : State) {op : BitVec 4} (hop : op = 0x0#4 ∨ op = 0x5#4) (data : Byte) :
    s.cmdReady (op ++ data) = true := by
  rw [s.cmdReady_iff, acceptedWhileBusy_iff, CommandWord.op_append]
  exact .inr hop

/-- Settles O27: `NOP` decodes, is always ready, and responds 0x00. -/
theorem nopRespondsZero : Obligations.NopRespondsZero := fun data s =>
  ⟨decodeInvertsEncode (.nop data) rfl, s.cmdReady_of_op (.inl rfl) data, rfl⟩

/-- The fields of the status byte (R63). -/
theorem State.status_fields (s : State) :
    s.status.extractLsb' 5 3 = s.mode.code ∧
      s.status.getLsbD 4 = s.errIll ∧ s.status.getLsbD 3 = s.errSeq ∧ s.status.getLsbD 2 = s.errTooLarge ∧
      s.status.getLsbD 1 = s.digestValidBit ∧ s.status.getLsbD 0 = s.busyBit := by
  have hhigh : ∀ i, s.status.getLsbD (5 + i) = s.mode.code.getLsbD i := fun i => by
    have hpast : ∀ k, k < 5 → ¬ 5 + i - k < 1 := fun k hk => by omega
    simp only [State.status, BitVec.getLsbD_append, Nat.sub_sub]
    simp [hpast]
  refine ⟨?_, ?_⟩
  · ext i hi
    simp [hhigh, hi]
  · simp only [State.status, BitVec.getLsbD_append, BitVec.getLsbD_ofBool]
    simp

/-- Settles O28: the response is the status byte, whose fields are read off one by one. -/
theorem rdstatRespondsStatus : Obligations.RdstatRespondsStatus := by
  intro data s
  obtain ⟨hmode, hill, hseq, hlarge, hvalid, hbusy⟩ := s.status_fields
  refine ⟨decodeInvertsEncode (.rdstat data) rfl, s.cmdReady_of_op (.inr rfl) data, s.status, rfl, ?_, hill, hseq,
    hlarge, ?_, ?_⟩
  · rw [hmode]
    cases s.mode <;> rfl
  · rw [hvalid]
    exact decide_eq_true_iff
  · rw [hbusy]
    exact decide_eq_true_iff

/-- Settles O29: where it is accepted, `INIT` writes the same new context over every state, also over a new context. -/
theorem initStartsAContext : Obligations.InitStartsAContext := by
  refine fun data s => ⟨decodeInvertsEncode (.init data) rfl, fun hm => ?_, fun hm => unlessHeld_of_busy hm _⟩
  have hstart : ∀ {s : State}, s.mode ≠ .busy → exec (.init data) s = .next s.initContext := fun hm =>
    unlessHeld_of_not_busy hm _
  exact ⟨s.initContext, hstart hm, rfl, by simp [State.len_eq], hstart (s := s.initContext) (by simp)⟩

/-! ## Commands refused by mode or by length (R101, R155, R171, R172) -/

/-- In `ERROR` the commands of a message are refused, and no digest is readable (R155, R172). -/
theorem exec_of_error {s : State} (hm : s.mode = .error) :
    (∀ b, exec (.update b) s = .next (s.raise .sequenceError)) ∧
      (∀ data, exec (.final data) s = .next (s.raise .sequenceError)) ∧
      ∀ i, exec (.rddigest i) s = .next (s.raise .sequenceError) := by
  have hb : s.mode ≠ .busy := by simp [hm]
  exact ⟨fun _ => unlessHeld_inMode_of_ne hb (by simp [hm]) _, fun _ => unlessHeld_inMode_of_ne hb (by simp [hm]) _,
    fun _ => unlessHeld_inMode_of_ne hb (by simp [hm]) _⟩

/-- `UPDATE` at the largest length raises InputTooLarge (R101, R171). -/
theorem exec_update_of_maxLen {s : State} (hm : s.mode = .absorb) (hl : s.len = maxLen) (b : Byte) :
    exec (.update b) s = .next (s.raise .inputTooLarge) := by
  rw [exec, execUpdate, unlessHeld_inMode hm (by decide), State.updateByte, if_pos hl]

/-- `RDDIGEST` in `DONE` responds with the digest byte (R155). -/
theorem exec_rddigest_of_done {s : State} (hm : s.mode = .done) (i : BitVec 5) :
    exec (.rddigest i) s = .next (s.respond (digestByte s.h i)) := by
  rw [exec, execRddigest, unlessHeld_inMode hm (by decide)]

/-- Settles O33: the digest byte of index `4j + k`. -/
theorem rddigestReadsTheByte : Obligations.RddigestReadsTheByte := by
  intro s j k hm
  rw [exec_rddigest_of_done hm, digestByte_ofNat s.h j.val k.val j.isLt k.isLt]
  rfl

/-! ## Words that are no legal command (R68, R157, R173) -/

/-- A word of a reserved opcode, or of opcode 0x4 with an illegal operand, is in one of the thirteen rows (R68, R157). -/
theorem decodeCommand_mem_illegalRows {w : CommandWord}
    (h : 6 ≤ w.op.toNat ∨ w.op = 0x4#4 ∧ w.data.extractLsb' 5 3 ≠ 0) : decodeCommand w ∈ illegalRows w.data := by
  obtain hop | ⟨hop, hdata⟩ := h
  · unfold decodeCommand
    split <;> simp_all [illegalRows]
  · rw [decodeCommand_of_op_rddigest hop]
    obtain hrow | hrow | hrow | hrow := rddigest_operand_cases w.data
    · simp [decodeRddigest_of_1xx hrow, illegalRows]
    · simp [decodeRddigest_of_01x hrow, illegalRows]
    · simp [decodeRddigest_of_001 hrow, illegalRows]
    · exact absurd hrow hdata

/-- The thirteen words that are no legal command raise IllegalCommand where they are accepted (R157, R173). -/
theorem exec_illegal_of_not_busy {i : Instr} {data : Byte} {s : State} (hi : i ∈ illegalRows data)
    (hm : s.mode ≠ .busy) : exec i s = .next (s.raise .illegalCommand) :=
  (exec_of_mem_illegalRows hi s).trans (unlessHeld_of_not_busy hm _)

/-- Settles O35: all thirteen constructors have one meaning, and the words of the second part decode to them. -/
theorem illegalWordsRaiseIllegalCommand : Obligations.IllegalWordsRaiseIllegalCommand := by
  refine ⟨fun data s i hi hm => exec_illegal_of_not_busy hi hm, fun w s hw => ?_⟩
  have hoperand : w.data.extractLsb' 5 3 = w.extractLsb' 5 3 := BitVec.extractLsb'_extractLsb'_of_le (by omega)
  have hi : decodeCommand w ∈ illegalRows w.data := decodeCommand_mem_illegalRows (by rw [hoperand]; exact hw)
  refine ⟨fun hm => ⟨(s.cmdReady_iff w).mpr (.inl hm), exec_illegal_of_not_busy hi hm⟩, fun hm => ?_⟩
  have hr : s.cmdReady w = false := by
    refine (busyHoldsCommands s w).1.mpr ⟨hm, ?_⟩
    obtain hop | ⟨hop, -⟩ := hw
    · constructor <;> bv_omega
    · simp [hop]
  exact ⟨hr, exec_of_cmdReady_eq_false hr⟩

/-! ## Responses (R64) -/

/-- Settles O49: of the effects only those of `RDSTAT` and of an accepted `RDDIGEST` respond with a byte other than 0x00. -/
theorem noPartialDigest : Obligations.NoPartialDigest := by
  intro i s t v h hs ht hv
  cases exec_effect h with
  | rdstat data => exact .inl ⟨data, rfl⟩
  | rddigest k hm => exact .inr ⟨hm, k, rfl⟩
  | _ => simp_all

end Sys2Proof.Machine
end

section
/-! PROOF. The core between the host's commands (44_commands.md R150, R162; 70_reset_and_hazards.md R204, R205): it comes to
rest, and to a host that holds every command until it is accepted its steps are waits, micro-operations and the commands in
their order. -/

namespace Sys2Proof.Machine

/-! ## The core comes to rest (R150, R204, R205) -/

/-- How many micro-operations the core still makes before it leaves `BUSY` (R205): 66 for a block from `LOAD` on, and 67
for the second padding block, which `PAD2` builds. -/
def State.work (s : State) : Nat :=
  let after := if s.next = .pad2 then 67 else 0
  match s.phase with
  | .idle => 0
  | .load => 66 + after
  | .round => 65 - s.t.toNat + after
  | .fold => 1 + after
  | .pad2 => 67

/-- `BUSY` never lasts longer than 133 micro-operations (R205). -/
theorem State.work_le (s : State) : s.work ≤ 133 := by
  simp only [State.work]
  split_ifs <;> split <;> omega

/-- A core that is not busy has nothing to do (R31). -/
theorem State.work_of_not_busy {s : State} (hl : s.Legal = true) (hm : s.mode ≠ .busy) : s.work = 0 := by
  obtain ⟨hp, -⟩ := (State.legal_iff_of_not_busy hm).mp hl
  simp [State.work, hp]

/-- A word that is no legal command is a command word (R68). -/
theorem isCommand_of_mem_illegalRows {i : Instr} {data : Byte} (hi : i ∈ illegalRows data) : i.isCommand = true := by
  simp only [illegalRows, List.mem_cons, List.not_mem_nil, or_false] at hi
  obtain rfl | rfl | rfl | rfl | rfl | rfl | rfl | rfl | rfl | rfl | rfl | rfl | rfl := hi <;> rfl

/-- Every micro-operation is one fewer to make (R18, R205). -/
theorem Effect.work_lt {i : Instr} {s t : State} (h : Effect i s t) (hi : i.isCommand = false) : t.work < s.work := by
  cases h with
  | loads _ hp => simp [State.work, hp]
  | rounds u _ hp ht hu =>
    have hlt : u.toNat + 1 < 64 := by bv_omega
    have hsucc : (u + 1).toNat = u.toNat + 1 := by bv_omega
    simp only [State.work, hp, ht, hsucc]
    omega
  | lastRound u _ hp ht hu => simp [State.work, hp, ht, hu]
  | foldsToAbsorb _ hp _ hn | foldsToDone _ hp _ hn | foldsToPad2 _ hp _ hn => simp [State.work, hp, hn]
  | pads _ hp => simp [State.work, hp]
  | held hc => simp [hc] at hi
  | illegal _ _ hmem => simp [isCommand_of_mem_illegalRows hmem] at hi
  | _ => cases hi

/-- What bounds the steps until the core has taken every input and is at rest: each input can start one busy time. -/
def State.stepsToRest (s : State) : Nat := 134 * s.inputs.length + s.work

/-- A turn takes the input at the port or leaves it there (R150). -/
theorem State.inputsLeft_cases (s : State) : s.inputsLeft = s.inputs ∨ s.inputsLeft = s.inputs.tail := by
  unfold State.inputsLeft
  split
  · simp [*]
  · split <;> simp [*]
  · simp [*]

/-- A turn never adds an input (R150). -/
theorem State.length_inputsLeft_le (s : State) : s.inputsLeft.length ≤ s.inputs.length := by
  obtain h | h := s.inputsLeft_cases <;> simp [h]

/-- Where the core is not busy a turn takes the input at the port (R61). -/
theorem State.inputsLeft_of_not_busy {s : State} (hm : s.mode ≠ .busy) : s.inputsLeft = s.inputs.tail := by
  have hready : ∀ w, s.cmdReady w = true := fun w => (s.cmdReady_iff w).mpr (.inl hm)
  unfold State.inputsLeft
  split <;> simp [*]

/-- A ready command is taken from the port (R150). -/
theorem State.inputsLeft_of_ready {s : State} {w : CommandWord} {rest : List HostInput}
    (hin : s.inputs = .command w :: rest ∨ s.inputs = .tryCommand w :: rest) (hr : s.cmdReady w = true) :
    s.inputsLeft = rest := by
  obtain hin | hin := hin <;> simp [State.inputsLeft, hin, hr]

/-- No instruction touches the inputs (R10). -/
theorem Effect.inputs_eq {i : Instr} {s t : State} (h : Effect i s t) : t.inputs = s.inputs := by
  cases h <;> simp

/-- A sequencer word decodes to a micro-operation, never to a command (R65). -/
theorem isCommand_of_decode_sequencer {w : SeqWord} {i : Instr} (h : decode (.sequencer w) = .ok i) :
    i.isCommand = false := by
  obtain ⟨henc, -⟩ := encode_of_decodeSequencer h
  cases i with
  | load | round | fold | pad2 => rfl
  | _ => cases henc

/-- Every step of a legal state that is not at rest takes an input or makes a micro-operation (R150, R204). -/
theorem stepsToRest_lt {s t : State} (hl : s.Legal = true) (hrest : s.inputs ≠ [] ∨ s.mode = .busy)
    (h : step s = .next t) : t.stepsToRest < s.stepsToRest := by
  have hlt : t.Legal = true := stepKeepsLegal s t hl h
  have hle := s.length_inputsLeft_le
  have hwork := t.work_le
  unfold State.stepsToRest
  obtain ⟨⟨rest, hin⟩, rfl⟩ | ⟨-, w, rest, hin, hr, hx⟩ | ⟨-, hm, i, hd, hx⟩ | ⟨-, hm, rfl⟩ := step_cases h
  · have hleft : s.beginTurn.assertReset.inputs = rest := by simp [State.assertReset, State.inputsLeft, hin]
    rw [State.work_of_not_busy hlt (by simp [State.assertReset]), hleft, hin, List.length_cons]
    omega
  · have hlen : s.inputs.length = rest.length + 1 := by obtain hin | hin := hin <;> simp [hin]
    rw [(exec_effect hx).inputs_eq, State.beginTurn_inputs, State.inputsLeft_of_ready hin hr]
    omega
  · have hdec : t.work < s.work := (exec_effect hx).work_lt (isCommand_of_decode_sequencer hd)
    rw [(exec_effect hx).inputs_eq, State.beginTurn_inputs]
    omega
  · have hne : s.inputs ≠ [] := by simpa [hm] using hrest
    have hpos := List.length_pos_iff.mpr hne
    rw [State.work_of_not_busy hlt hm, State.beginTurn_inputs, State.inputsLeft_of_not_busy hm, List.length_tail]
    omega

/-- What every step of a legal state keeps holds when the core has taken every input and is at rest, which it comes to. -/
theorem exists_run_to_rest {P : State → Prop} (hP : ∀ s t, s.Legal = true → P s → step s = .next t → P t)
    {s : State} (hl : s.Legal = true) (hs : P s) :
    ∃ k t, core.run k s = .next t ∧ t.inputs = [] ∧ t.mode ≠ .busy ∧ t.Legal = true ∧ P t := by
  induction hn : s.stepsToRest using Nat.strong_induction_on generalizing s with
  | _ n ih =>
    by_cases hrest : s.inputs = [] ∧ s.mode ≠ .busy
    · exact ⟨0, s, rfl, hrest.1, hrest.2, hl, hs⟩
    · obtain ⟨u, hu⟩ := (legalStatesAlwaysStep s).1 hl
      have hlt := stepsToRest_lt hl (by tauto) hu
      obtain ⟨k, t, hrun, ht⟩ := ih _ (hn ▸ hlt) (stepKeepsLegal s u hl hu) (hP s u hl hs hu) rfl
      exact ⟨k + 1, t, (run_succ_of_step hu k).trans hrun, ht⟩

/-! ## What the host still asks for (R74, R162) -/

/-- The inputs at the port that are not transparent (R162). -/
def State.pending (s : State) : List HostInput := s.inputs.filter fun x => !x.transparent

/-- What one step does for a host that holds every command until it is accepted; `hostedStep_of_step` ties it to `step`. -/
inductive HostedStep (s t : State) : Prop
  /-- A wait. -/
  | waits (hp : t.pending = s.pending) (ht : t = s.beginTurn)
  /-- A command that changes no register (R162). -/
  | responds (hp : t.pending = s.pending) (v : Byte) (ht : t = s.beginTurn.respond v)
  /-- The core's own move. -/
  | moves (hp : t.pending = s.pending) (hm : s.mode = .busy) (i : Instr) (hi : i.isCommand = false)
      (hx : exec i s.beginTurn = .next t)
  /-- The next command that is not transparent. -/
  | issues (w : CommandWord) (hm : s.mode ≠ .busy) (hp : s.pending = .command w :: t.pending)
      (hx : exec (decodeCommand w) s.beginTurn = .next t)

/-- What is pending is decided by the inputs. -/
theorem State.pending_congr {s t : State} (h : t.inputs = s.inputs) : t.pending = s.pending := by
  rw [State.pending, State.pending, h]

/-- The input at the port is pending unless it is transparent. -/
theorem State.mem_pending_of_head {s : State} {x : HostInput} {rest : List HostInput} (hin : s.inputs = x :: rest)
    (hx : x.transparent = false) : x ∈ s.pending := by
  simp [State.pending, hin, hx]

/-- A command at the port that is not transparent is issued where the core is not busy (R150). -/
theorem hostedStep_of_issue {s t : State} {w : CommandWord} {rest : List HostInput} (hl : s.Legal = true)
    (hin : s.inputs = .command w :: rest) (hw : acceptedWhileBusy w = false) (hm : s.mode ≠ .busy)
    (h : step s = .next t) : HostedStep s t := by
  have hr : s.cmdReady w = true := (s.cmdReady_iff w).mpr (.inl hm)
  have hleft := State.inputsLeft_of_ready (.inl hin) hr
  have hstep : step s = exec (decodeCommand w) s.beginTurn := by
    rw [step_command hl (.inl hin) hr, State.beginTurn, hleft]
  have hx := hstep.symm.trans h
  refine .issues w hm ?_ hx
  rw [State.pending, State.pending, (exec_effect hx).inputs_eq, State.beginTurn_inputs, hleft, hin]
  simp [HostInput.transparent, hw]

section
variable {s t : State} (hl : s.Legal = true) (hcmd : ∀ x ∈ s.pending, ∃ w, x = .command w)
include hcmd

/-- The input at the port is transparent, or a command held until it is accepted. -/
theorem State.head_of_pending {x : HostInput} {rest : List HostInput} (hin : s.inputs = x :: rest) :
    x.transparent = true ∨ ∃ w, x = .command w ∧ acceptedWhileBusy w = false := by
  by_cases hx : x.transparent = true
  · exact .inl hx
  · obtain ⟨w, rfl⟩ := hcmd x (State.mem_pending_of_head hin (by simpa using hx))
    exact .inr ⟨w, rfl, by simpa [HostInput.transparent] using hx⟩

/-- A turn that issues no command but a transparent one takes nothing from what is pending (R150, R162). -/
theorem State.pending_beginTurn
    (hno : ∀ w rest, s.inputs = .command w :: rest → acceptedWhileBusy w = false → s.mode = .busy) :
    s.beginTurn.pending = s.pending := by
  cases hin : s.inputs with
  | nil => exact State.pending_congr (by simp [State.inputsLeft, hin])
  | cons x rest =>
    obtain hx | ⟨w, rfl, hw⟩ := State.head_of_pending hcmd hin
    · obtain hleft | hleft := s.inputsLeft_cases
      · exact State.pending_congr hleft
      · simp [State.pending, hleft, hin, hx]
    · have hr : s.cmdReady w = false := (s.cmdReady_eq_false_iff w).mpr ⟨hno w rest hin hw, hw⟩
      exact State.pending_congr (by simp [State.inputsLeft, hin, hr])

/-- A ready command at such a host's port is transparent, where no other can be issued. -/
theorem State.accepted_of_ready {w : CommandWord} {rest : List HostInput}
    (hin : s.inputs = .command w :: rest ∨ s.inputs = .tryCommand w :: rest) (hr : s.cmdReady w = true)
    (hno : ∀ w rest, s.inputs = .command w :: rest → acceptedWhileBusy w = false → s.mode = .busy) :
    acceptedWhileBusy w = true := by
  obtain hin | hin := hin
  · rw [← Bool.not_eq_false]
    intro hw
    simp [State.cmdReady, hno w rest hin hw, hw] at hr
  · obtain hx | ⟨_, hx, -⟩ := State.head_of_pending hcmd hin
    · exact hx
    · cases hx

include hl

/-- The step of a legal state whose host holds every command until it is accepted. -/
theorem hostedStep_of_step (h : step s = .next t) : HostedStep s t := by
  by_cases hissue : ∃ w rest, s.inputs = .command w :: rest ∧ acceptedWhileBusy w = false ∧ s.mode ≠ .busy
  · obtain ⟨w, rest, hin, hw, hm⟩ := hissue
    exact hostedStep_of_issue hl hin hw hm h
  · have hno : ∀ w rest, s.inputs = .command w :: rest → acceptedWhileBusy w = false → s.mode = .busy := by
      intro w rest hin hw
      by_contra hm
      exact hissue ⟨w, rest, hin, hw, hm⟩
    have hp := State.pending_beginTurn hcmd hno
    obtain ⟨⟨rest, hin⟩, -⟩ | ⟨-, w, rest, hin, hr, hx⟩ | ⟨-, hm, i, hd, hx⟩ | ⟨-, -, rfl⟩ := step_cases h
    · obtain hx | ⟨w, hx, -⟩ := State.head_of_pending hcmd hin <;> cases hx
    · obtain ⟨v, hv⟩ := exec_of_acceptedWhileBusy (State.accepted_of_ready hcmd hin hr hno) s.beginTurn
      exact .responds ((State.pending_congr (exec_effect hx).inputs_eq).trans hp) v
        (Host.Outcome.next.inj (hv.symm.trans hx)).symm
    · exact .moves ((State.pending_congr (exec_effect hx).inputs_eq).trans hp) hm i
        (isCommand_of_decode_sequencer hd) hx
    · exact .waits hp rfl

end

end Sys2Proof.Machine
end

section
/-! PROOF. A whole message (44_commands.md R161, R162): the bytes the context has absorbed are accounted for through every
step, so the record in `DONE` is the message's padding, and a message that is too long ends in `ERROR`. -/

namespace Sys2Proof.Machine

/-! ## The words of a message (R74) -/

/-- The word of a well-formed command decodes to it (R62). -/
theorem decodeCommand_of_encode {i : Instr} {w : CommandWord} (hwf : i.WellFormed = true) (h : encode i = .command w) :
    decodeCommand w = i := by
  have hd := decodeInvertsEncode i hwf
  rw [h] at hd
  exact Except.ok.inj hd

/-- Where a command's input is next, its word is at the port (R74). -/
theorem decodeCommand_of_commandInput {i : Instr} {w w' : CommandWord} {rest rest' : List HostInput}
    (hwf : i.WellFormed = true) (henc : encode i = .command w') (h : .command w :: rest = commandInput i ++ rest') :
    decodeCommand w = i ∧ rest = rest' := by
  simp only [commandInput, henc, List.singleton_append, List.cons.injEq, HostInput.command.injEq] at h
  obtain ⟨rfl, hrest⟩ := h
  exact ⟨decodeCommand_of_encode hwf henc, hrest⟩

/-- Every input of `hash m` after `INIT` is a byte's `UPDATE` or `FINAL` (R74). -/
theorem mem_bodyInputs {m : List Byte} {x : HostInput} (h : x ∈ updatesInputs m ++ commandInput (.final 0)) :
    ∃ w, x = .command w ∧ ((∃ b, decodeCommand w = .update b) ∨ decodeCommand w = .final 0) := by
  obtain h | h := List.mem_append.mp h
  · obtain ⟨b, -, hb⟩ := List.mem_flatMap.mp h
    exact ⟨_, List.mem_singleton.mp hb, .inl ⟨b, decodeCommand_of_encode rfl rfl⟩⟩
  · exact ⟨_, List.mem_singleton.mp h, .inr (decodeCommand_of_encode rfl rfl)⟩

/-! ## The context in progress (R109, R138) -/

/-- The bytes handed over to the scheduler unit since `INIT`, with those of the block buffer while it is being filled or
waits for `LOAD`. -/
def State.stream (s : State) : List Byte :=
  s.blkTrace.flatMap Vector.toList ++ if s.mode = .absorb ∨ s.phase = .load then s.blk.toList else []

/-- The context has absorbed the bytes `got` and no error. -/
structure State.Absorbed (s : State) (got : List Byte) : Prop where
  noErrors : s.NoErrors
  chained : s.Chained
  padded : s.Padded
  length : s.len.toNat = 8 * got.length
  bytes : got <+: s.stream

/-- The mode the core is in once it has made its micro-operations (R23, R137). -/
def State.heading (s : State) : Mode :=
  match s.mode, s.next with
  | .busy, .absorb => .absorb
  | .busy, _ => .done
  | m, _ => m

/-- Where the core is not busy it is where it is heading. -/
theorem State.heading_of_not_busy {s : State} (hm : s.mode ≠ .busy) : s.heading = s.mode := by
  unfold State.heading
  split <;> simp_all

/-- The context goes on in `t` as it was in `s`: length and flags are kept, bytes of the stream are only added, and the core
is heading for the same mode. -/
structure State.Continues (s t : State) : Prop where
  lenHi : t.lenHi = s.lenHi
  errTooLarge : t.errTooLarge = s.errTooLarge
  errSeq : t.errSeq = s.errSeq
  errIll : t.errIll = s.errIll
  stream : s.stream <+: t.stream
  heading : t.heading = s.heading

/-- A context that goes on has absorbed the same bytes. -/
theorem State.Absorbed.continues {s t : State} {got : List Byte} (hs : s.Absorbed got) (h : s.Continues t)
    (hchain : t.Chained) (hpad : t.Padded) : t.Absorbed got := by
  obtain ⟨hlarge, hseq, hill⟩ := hs.noErrors
  refine ⟨⟨h.errTooLarge.trans hlarge, h.errSeq.trans hseq, h.errIll.trans hill⟩, hchain, hpad, ?_,
    hs.bytes.trans h.stream⟩
  rw [State.len_eq, h.lenHi, ← State.len_eq, hs.length]

/-- Taking an input lets the context go on: no register changes (R162). -/
theorem State.continues_beginTurn (s : State) : s.Continues s.beginTurn :=
  ⟨rfl, rfl, rfl, rfl, List.prefix_rfl, rfl⟩

/-- A response lets the context go on (R64). -/
theorem State.continues_respond (s : State) (v : Byte) : s.Continues (s.beginTurn.respond v) :=
  ⟨rfl, rfl, rfl, rfl, List.prefix_rfl, rfl⟩

/-- What goes on after an input is taken goes on from before. -/
theorem State.Continues.of_beginTurn {s t : State} (h : s.beginTurn.Continues t) : s.Continues t :=
  ⟨h.lenHi, h.errTooLarge, h.errSeq, h.errIll, h.stream, h.heading⟩

/-- Taking an input keeps what is absorbed. -/
theorem State.Absorbed.beginTurn {s : State} {got : List Byte} (hs : s.Absorbed got) : s.beginTurn.Absorbed got :=
  hs.continues s.continues_beginTurn hs.chained hs.padded

/-- A micro-operation lets the context go on (R18, R137): `LOAD` moves the block from the buffer to the record, `FOLD` and
`PAD2` leave a buffer that is filled anew. -/
theorem Effect.micro_continues {i : Instr} {s t : State} (h : Effect i s t) (hi : i.isCommand = false)
    (hpad : s.Padded) : s.Continues t := by
  cases h with
  | loads hm hp => exact ⟨rfl, rfl, rfl, rfl, by simp [State.stream, hm, hp], by simp [State.heading, hm]⟩
  | rounds _ hm hp | lastRound _ hm hp => exact ⟨rfl, rfl, rfl, rfl, by simp [State.stream, hm, hp], rfl⟩
  | foldsToAbsorb hm hp _ hn | foldsToDone hm hp _ hn =>
    exact ⟨rfl, rfl, rfl, rfl, by simp [State.stream, hm, hp], by simp [State.heading, hm, hn]⟩
  | foldsToPad2 hm hp => exact ⟨rfl, rfl, rfl, rfl, by simp [State.stream, hm, hp], rfl⟩
  | pads hm hp =>
    obtain ⟨hn, -⟩ := (State.padded_iff_of_pad2 hm hp).mp hpad
    exact ⟨rfl, rfl, rfl, rfl, by simp [State.stream, hm, hp], by simp [State.heading, hm, hn]⟩
  | held hc => simp [hc] at hi
  | illegal _ _ hmem => simp [isCommand_of_mem_illegalRows hmem] at hi
  | _ => cases hi

/-- While the buffer is being filled, and until `LOAD` takes it, its bytes are in the stream. -/
theorem State.stream_of_filling {s : State} (h : s.mode = .absorb ∨ s.phase = .load) :
    s.stream = s.blkTrace.flatMap Vector.toList ++ s.blk.toList := by
  rw [State.stream, if_pos h]

/-- The held bytes are the start of the recorded Blocks and the buffer. -/
theorem heldBytes_prefix (blocks : List Block) (blk : Block) (fill : Nat) :
    heldBytes blocks blk fill <+: blocks.flatMap Vector.toList ++ blk.toList :=
  (List.prefix_append_right_inj _).mpr (List.take_prefix _ _)

/-- Storing a byte at the fill index holds it too (R101). -/
theorem heldBytes_set (blocks : List Block) (blk : Block) (b : Byte) {fill : Nat} (hf : fill < 64) :
    heldBytes blocks (blk.set fill b hf) (fill + 1) = heldBytes blocks blk fill ++ [b] := by
  rw [heldBytes, heldBytes, List.append_assoc, Vector.toList_set, List.take_add_one]
  simp [hf, List.take_set_of_le]

/-- Only the buffer's bytes below the fill index are held. -/
theorem heldBytes_congr {blocks : List Block} {blk blk' : Block} {fill : Nat}
    (h : ∀ (j : Nat) (hj : j < 64), j < fill → blk'[j] = blk[j]) :
    heldBytes blocks blk' fill = heldBytes blocks blk fill := by
  have htake : blk'.toList.take fill = blk.toList.take fill := by
    refine List.ext_getElem (by simp) fun j hj _ => ?_
    simp only [List.length_take, Vector.length_toList] at hj
    simpa using h j (by omega) (by omega)
  rw [heldBytes, heldBytes, htake]

section
variable {s t : State} {got : List Byte}

/-- In `ABSORB` the bytes absorbed are those held (R101, R109). -/
theorem State.Absorbed.eq_heldBytes (hs : s.Absorbed got) (hm : s.mode = .absorb) :
    got = heldBytes s.blkTrace s.blk s.fill.toNat := by
  have hpad := (State.padded_iff_of_absorb hm).mp hs.padded
  have hlen := hs.length
  have hbytes := hs.bytes
  have hcount : got.length = (heldBytes s.blkTrace s.blk s.fill.toNat).length := by
    rw [heldBytes_length s.fill.isLt.le]
    omega
  rw [State.stream_of_filling (.inl hm)] at hbytes
  exact (List.prefix_of_prefix_length_le hbytes (heldBytes_prefix _ _ _) hcount.le).eq_of_length hcount

/-- A new context has absorbed nothing (R152). -/
theorem State.absorbed_initContext (s : State) : s.initContext.Absorbed [] where
  noErrors := ⟨rfl, rfl, rfl⟩
  chained := (State.chained_iff_of_between (.inl rfl)).mpr rfl
  padded := (State.padded_iff_of_absorb rfl).mpr (by simp [State.fill_eq, State.len_eq])
  length := by simp [State.len_eq]
  bytes := List.nil_prefix

/-- After an absorbed byte the buffer waits for more bytes or for `LOAD`, and the core is heading for `ABSORB` (R101). -/
theorem State.absorbByte_control (hm : s.mode = .absorb) (b : Byte) :
    ((s.absorbByte b).mode = .absorb ∨ (s.absorbByte b).phase = .load) ∧ (s.absorbByte b).heading = .absorb := by
  by_cases hf : s.fill = 63
  · obtain ⟨hmode, hphase, hnext⟩ := State.absorbByte_control_of_full hf b
    exact ⟨.inr hphase, by simp [State.heading, hmode, hnext]⟩
  · obtain ⟨hmode, -, -⟩ := State.absorbByte_control_of_not_full hf b
    exact ⟨.inl (hmode.trans hm), by simp [State.heading, hmode, hm]⟩

/-- An absorbed byte is the next of the context (R101). -/
theorem State.Absorbed.absorbByte (hs : s.Absorbed got) (hm : s.mode = .absorb) (hmax : s.len ≠ maxLen) (b : Byte) :
    ((s.absorbByte b).respond 0).Absorbed (got ++ [b]) ∧ ((s.absorbByte b).respond 0).heading = .absorb := by
  have he := exec_effect (exec_update_of_absorb hm hmax b)
  obtain ⟨hfilling, hheading⟩ := State.absorbByte_control hm b
  refine ⟨⟨?_, he.keeps_chained hs.chained, he.keeps_padded hs.padded, ?_, ?_⟩, hheading⟩
  · simpa [State.NoErrors] using hs.noErrors
  · rw [State.respond_len, State.absorbByte_len_toNat hmax, hs.length, List.length_append, List.length_singleton]
    omega
  · rw [hs.eq_heldBytes hm, State.stream_of_filling (by exact hfilling), ← heldBytes_set _ _ _ s.fill.isLt]
    simpa using heldBytes_prefix s.blkTrace (s.blk.set s.fill.toNat b s.fill.isLt) (s.fill.toNat + 1)

/-- `FINAL` ends the context with the bytes it has absorbed (R103). -/
theorem State.Absorbed.finalise (hs : s.Absorbed got) (hm : s.mode = .absorb) :
    (s.finalise.respond 0).Absorbed got ∧ (s.finalise.respond 0).heading = .done := by
  have he := exec_effect (exec_final_of_absorb hm 0)
  refine ⟨⟨?_, he.keeps_chained hs.chained, he.keeps_padded hs.padded, ?_, ?_⟩, ?_⟩
  · simpa [State.NoErrors] using hs.noErrors
  · rw [State.respond_len, State.finalise_len, hs.length]
  · have hheld : heldBytes s.blkTrace s.finalise.blk s.fill.toNat = got :=
      (heldBytes_congr fun _ hj hlt => s.finalise_blk_getElem_of_lt hj hlt).trans (hs.eq_heldBytes hm).symm
    rw [← hheld, State.stream_of_filling (.inr (by simp))]
    simpa using heldBytes_prefix s.blkTrace s.finalise.blk s.fill.toNat
  · have hnext := s.finalise_next
    by_cases hf : s.fill.toNat ≤ 55 <;> simp [State.heading, hnext, hf]

/-- At the largest length one byte less than `2^61` is absorbed (R24, R101). -/
theorem State.Absorbed.length_of_maxLen (hs : s.Absorbed got) (hmax : s.len = maxLen) : got.length = 2 ^ 61 - 1 := by
  have hlen := hs.length
  rw [hmax, show maxLen.toNat = 8 * (2 ^ 61 - 1) from rfl] at hlen
  omega

/-- In `DONE` the record is the padding of the bytes absorbed (R109). -/
theorem State.Absorbed.pad_eq (hs : s.Absorbed got) (hm : s.mode = .done) : pad got = .ok s.blkTrace := by
  obtain ⟨m, hlen, hpad⟩ := (State.padded_iff_of_done hm).mp hs.padded
  have hgot := hs.length
  rw [State.len_eq, ← hlen] at hgot
  obtain ⟨-, -, htake, -⟩ := paddingHasTheStatedLayout m s.blkTrace hpad
  have hpadded : m <+: s.stream := by
    rw [← htake]
    exact (List.take_prefix _ _).trans (List.prefix_append _ _)
  have hcount : got.length = m.length := by omega
  have heq : got = m := (List.prefix_of_prefix_length_le hs.bytes hpadded hcount.le).eq_of_length hcount
  rwa [heq]

end

/-! ## A message, from the host's first command to its last (R162) -/

/-- How far the core is with the host's commands for the message `m`; `Serves.step` ties it to the steps. -/
inductive Serves (m : List Byte) (s : State) : Prop
  /-- `INIT` is still to come. -/
  | waiting (hm : s.mode ≠ .busy) (hp : s.pending = hashInputs m)
  /-- The bytes `got` are absorbed, `rest` and `FINAL` are still to come. -/
  | absorbing (got rest : List Byte) (hmsg : got ++ rest = m)
      (hp : s.pending = updatesInputs rest ++ commandInput (.final 0)) (hh : s.heading = .absorb) (hs : s.Absorbed got)
  /-- The whole message is absorbed. -/
  | finalised (hp : s.pending = []) (hh : s.heading = .done) (hs : s.Absorbed m)
  /-- The message had a byte too many; the rest of its commands are refused (R171, R172). -/
  | refused (hlen : 2 ^ 61 ≤ m.length) (hp : s.pending <:+ updatesInputs m ++ commandInput (.final 0))
      (hm : s.mode = .error)

/-- The inputs of `hash m` after `INIT` for the last bytes of the message. -/
theorem bodyInputs_suffix (got rest : List Byte) :
    updatesInputs rest ++ commandInput (.final 0) <:+ updatesInputs (got ++ rest) ++ commandInput (.final 0) :=
  ⟨updatesInputs got, by simp [updatesInputs]⟩

/-- In `ERROR` every command of the message after `INIT` is refused (R172). -/
theorem exec_bodyInput_of_error {s : State} {m : List Byte} {w : CommandWord} (hm : s.mode = .error)
    (hw : .command w ∈ updatesInputs m ++ commandInput (.final 0)) :
    exec (decodeCommand w) s = .next (s.raise .sequenceError) := by
  obtain ⟨_, hx, hi⟩ := mem_bodyInputs hw
  obtain rfl := HostInput.command.inj hx
  obtain ⟨hupdate, hfinal, -⟩ := exec_of_error hm
  obtain ⟨b, hi⟩ | hi := hi
  · rw [hi, hupdate]
  · rw [hi, hfinal]

section
variable {s t : State} {m : List Byte}

/-- Such a host holds every command until it is accepted. -/
theorem Serves.pending_eq_command (h : Serves m s) : ∀ x ∈ s.pending, ∃ w, x = .command w := by
  intro x hx
  have hbody : ∀ {m}, x ∈ updatesInputs m ++ commandInput (.final 0) → ∃ w, x = .command w := fun hx =>
    (mem_bodyInputs hx).imp fun _ hw => hw.1
  cases h with
  | waiting _ hp =>
    rw [hp, hashInputs, List.append_assoc] at hx
    obtain hx | hx := List.mem_append.mp hx
    · exact ⟨_, List.mem_singleton.mp hx⟩
    · exact hbody hx
  | absorbing _ _ _ hp => exact hbody (hp ▸ hx)
  | finalised hp => simp [hp] at hx
  | refused _ hp => exact hbody (hp.subset hx)

/-- A step in which the context goes on leaves the core as far as it was. -/
theorem Serves.continues (h : Serves m s) (hp : t.pending = s.pending) (hmode : s.mode ≠ .busy → t.mode = s.mode)
    (hc : s.Padded → s.Continues t) (hchain : s.Chained → t.Chained) (hpad : s.Padded → t.Padded) : Serves m t := by
  have habs : ∀ {got}, s.Absorbed got → t.heading = s.heading ∧ t.Absorbed got := fun hs =>
    ⟨(hc hs.padded).heading, hs.continues (hc hs.padded) (hchain hs.chained) (hpad hs.padded)⟩
  cases h with
  | waiting hm hps => exact .waiting (by rwa [hmode hm]) (hp.trans hps)
  | absorbing got rest hmsg hps hh hs =>
    obtain ⟨hheading, ht⟩ := habs hs
    exact .absorbing got rest hmsg (hp.trans hps) (hheading.trans hh) ht
  | finalised hps hh hs =>
    obtain ⟨hheading, ht⟩ := habs hs
    exact .finalised (hp.trans hps) (hheading.trans hh) ht
  | refused hlen hps hm => exact .refused hlen (hp ▸ hps) ((hmode (by simp [hm])).trans hm)

/-- An issued command takes the core one command further. -/
theorem Serves.issues {w : CommandWord} (h : Serves m s) (hm : s.mode ≠ .busy)
    (hp : s.pending = .command w :: t.pending) (hx : exec (decodeCommand w) s.beginTurn = .next t) : Serves m t := by
  cases h with
  | waiting _ hps =>
    rw [hp, hashInputs, List.append_assoc] at hps
    obtain ⟨hi, hpt⟩ := decodeCommand_of_commandInput rfl rfl hps
    rw [hi] at hx
    obtain ⟨hb, -⟩ | ⟨-, rfl⟩ := execInit_next hx
    · exact absurd hb hm
    · exact .absorbing [] m rfl hpt rfl s.beginTurn.absorbed_initContext
  | absorbing got rest hmsg hps hh hs =>
    have ha : s.mode = .absorb := (State.heading_of_not_busy hm).symm.trans hh
    cases rest with
    | nil =>
      obtain ⟨hi, hpt⟩ := decodeCommand_of_commandInput (i := .final 0) (rest' := []) rfl rfl (hp.symm.trans hps)
      rw [hi, exec_final_of_absorb (by exact ha)] at hx
      obtain rfl := Host.Outcome.next.inj hx
      obtain ⟨ht, hheading⟩ := hs.beginTurn.finalise ha
      rw [List.append_nil] at hmsg
      exact .finalised hpt hheading (hmsg ▸ ht)
    | cons b rest =>
      obtain ⟨hi, hpt⟩ := decodeCommand_of_commandInput (i := .update b) rfl rfl (hp.symm.trans hps)
      rw [hi] at hx
      by_cases hmax : s.beginTurn.len = maxLen
      · rw [exec_update_of_maxLen (by exact ha) hmax] at hx
        obtain rfl := Host.Outcome.next.inj hx
        refine .refused ?_ ?_ rfl
        · have hfull := hs.beginTurn.length_of_maxLen hmax
          rw [← hmsg, List.length_append, List.length_cons]
          omega
        · rw [hpt, ← hmsg, List.append_cons]
          exact bodyInputs_suffix (got ++ [b]) rest
      · rw [exec_update_of_absorb (by exact ha) hmax] at hx
        obtain rfl := Host.Outcome.next.inj hx
        obtain ⟨ht, hheading⟩ := hs.beginTurn.absorbByte ha hmax b
        exact .absorbing (got ++ [b]) rest (by simpa using hmsg) hpt hheading ht
  | finalised hps => simp [hps] at hp
  | refused hlen hps he =>
    rw [hp] at hps
    have hrefused := exec_bodyInput_of_error (s := s.beginTurn) he (hps.subset List.mem_cons_self)
    obtain rfl := Host.Outcome.next.inj (hrefused.symm.trans hx)
    exact .refused hlen ((List.suffix_cons _ _).trans hps) he

/-- Every step keeps the account of the host's commands. -/
theorem Serves.step (hl : s.Legal = true) (h : Serves m s) (hstep : Machine.step s = .next t) : Serves m t := by
  obtain ⟨hp, rfl⟩ | ⟨hp, v, rfl⟩ | ⟨hp, hm, i, hi, hx⟩ | ⟨w, hm, hp, hx⟩ :=
    hostedStep_of_step hl h.pending_eq_command hstep
  · exact h.continues hp (fun _ => rfl) (fun _ => s.continues_beginTurn) id id
  · exact h.continues hp (fun _ => rfl) (fun _ => s.continues_respond v) id id
  · have he := exec_effect hx
    exact h.continues hp (absurd hm) (fun hpad => (he.micro_continues hi hpad).of_beginTurn) he.keeps_chained
      he.keeps_padded
  · exact h.issues hm hp hx

/-- With no inputs left and the core at rest, the message is absorbed whole or was refused. -/
theorem Serves.at_rest (h : Serves m s) (hin : s.inputs = []) (hm : s.mode ≠ .busy) :
    s.mode = .done ∧ s.Absorbed m ∨ s.mode = .error ∧ 2 ^ 61 ≤ m.length := by
  have hp : s.pending = [] := by simp [State.pending, hin]
  cases h with
  | waiting _ hps =>
    rw [hp, hashInputs] at hps
    simp [commandInput, encode, commandWord] at hps
  | absorbing _ _ _ hps =>
    rw [hp] at hps
    simp [commandInput, encode, commandWord] at hps
  | finalised _ hh hs => exact .inl ⟨(State.heading_of_not_busy hm).symm.trans hh, hs⟩
  | refused hlen _ he => exact .inr ⟨he, hlen⟩

end

/-- From every legal state that is not busy, the host's commands for a message bring the core to rest with the message
absorbed whole or refused (R162, R204). -/
theorem exists_run_of_hashInputs {m : List Byte} {s : State} (hl : s.Legal = true) (hm : s.mode ≠ .busy)
    (hin : (s.inputs.filter fun x => !x.transparent) = hashInputs m) :
    ∃ k t, core.run k s = .next t ∧ t.inputs = [] ∧ t.Legal = true ∧
      (t.mode = .done ∧ t.Absorbed m ∨ t.mode = .error ∧ 2 ^ 61 ≤ m.length) := by
  obtain ⟨k, t, hrun, hquiet, hrest, hlt, ht⟩ :=
    exists_run_to_rest (P := Serves m) (fun _ _ hl h hstep => h.step hl hstep) hl (.waiting hm hin)
  exact ⟨k, t, hrun, hquiet, hlt, ht.at_rest hquiet hrest⟩

/-- Settles O55: the whole message is absorbed, so the record is its padding and `H` the chained state of it. -/
theorem machineHashesEveryMessage : Obligations.MachineHashesEveryMessage := by
  intro m s hlen hl hm hin
  obtain ⟨k, t, hrun, hquiet, -, ⟨hdone, hs⟩ | ⟨-, hlong⟩⟩ := exists_run_of_hashInputs hl hm hin
  · have hpad := hs.pad_eq hdone
    have hh : t.h = chain t.blkTrace := (State.chained_iff_of_between (.inr (.inl hdone))).mp hs.chained
    refine ⟨k, t, serialise t.h, hrun, hquiet, hdone, hs.noErrors, hpad, by rw [sha256, hpad, hh], fun i => ?_⟩
    rw [exec_rddigest_of_done hdone, ← serialise_getElem t.h i.val i.isLt]
    rfl
  · omega

/-- Settles O56: a message absorbed whole has a `LEN`, so one that is too long was refused. -/
theorem oversizeMessageEndsInError : Obligations.OversizeMessageEndsInError := by
  intro m s hlong hl hm hin
  have htoo : pad m = .error .inputTooLarge := (padFailsOnlyWhenTooLarge m).1 hlong
  refine ⟨by rw [sha256, htoo], ?_⟩
  obtain ⟨k, t, hrun, hquiet, hlt, ⟨-, hs⟩ | ⟨herror, -⟩⟩ := exists_run_of_hashInputs hl hm hin
  · have hlen := hs.length
    have hbound := t.len.isLt
    omega
  · obtain ⟨-, -, -, he⟩ := t.legal_iff.mp hlt
    obtain ⟨-, -, hread⟩ := exec_of_error herror
    exact ⟨k, t, hrun, hquiet, herror, he.mp herror, hread⟩

end Sys2Proof.Machine
end

section
/-! PROOF. The exceptions (60_exceptions.md R171, R172, R177): which command raises which, and the order of the checks. -/

namespace Sys2Proof.Machine

/-! ## Commands in a mode that does not allow them (R150, R172) -/

section
variable {s : State} (hb : s.mode ≠ .busy)
include hb

/-- `UPDATE` is allowed in `ABSORB` only (R101, R172). -/
theorem exec_update_of_ne (hm : s.mode ≠ .absorb) (b : Byte) :
    exec (.update b) s = .next (s.raise .sequenceError) :=
  unlessHeld_inMode_of_ne hb hm _

/-- `FINAL` is allowed in `ABSORB` only (R103, R172). -/
theorem exec_final_of_ne (hm : s.mode ≠ .absorb) (data : Byte) :
    exec (.final data) s = .next (s.raise .sequenceError) :=
  unlessHeld_inMode_of_ne hb hm _

/-- `RDDIGEST` with a legal operand is allowed in `DONE` only (R155, R172). -/
theorem exec_rddigest_of_ne (hm : s.mode ≠ .done) (i : BitVec 5) :
    exec (.rddigest i) s = .next (s.raise .sequenceError) :=
  unlessHeld_inMode_of_ne hb hm _

end

/-- Settles O34: none of the listed modes is `BUSY` or the one mode that allows the command. -/
theorem wrongModeRaisesSequenceError : Obligations.WrongModeRaisesSequenceError := by
  refine fun s => ⟨fun b hm => ?_, fun data hm => ?_, fun i hm => ?_⟩
  · exact exec_update_of_ne (by grind) (by grind) b
  · exact exec_final_of_ne (by grind) (by grind) data
  · exact exec_rddigest_of_ne (by grind) (by grind) i

/-! ## The largest length (R171) -/

/-- Settles O31: the length is the largest, and InputTooLarge changes the flag, the mode and the response. -/
theorem updateRaisesInputTooLarge : Obligations.UpdateRaisesInputTooLarge := fun b _ hm hl =>
  exec_update_of_maxLen hm hl b

/-! ## The order of the checks (R177) -/

/-- Settles O36: the operand byte decides what the word decodes to, and only the legal row has a mode check. -/
theorem illegalCommandComesFirst : Obligations.IllegalCommandComesFirst := by
  refine fun data s hb => ⟨fun hillegal => ?_, fun hlegal hm => ?_⟩
  · have hrow : decodeCommand (0x4#4 ++ data) ∈ illegalRows (CommandWord.data (0x4#4 ++ data)) :=
      decodeCommand_mem_illegalRows (.inr ⟨CommandWord.op_append _ _, by rwa [CommandWord.data_append]⟩)
    exact exec_illegal_of_not_busy hrow hb
  · rw [decodeCommand_of_op_rddigest (CommandWord.op_append _ _), CommandWord.data_append,
      decodeRddigest_of_000 hlegal]
    exact exec_rddigest_of_ne hb hm _

end Sys2Proof.Machine
end

section
/-! PROOF. Reset and liveness (70_reset_and_hazards.md R190, R205; 44_commands.md R150): the control state a reset leaves, and
how long the core stays in `BUSY` while it is left to itself. -/

namespace Sys2Proof.Machine

/-! ## The state after a reset (R190) -/

/-- The state after a reset is legal (R31, R190). -/
theorem State.legal_atReset (n : Nat) (inputs : List HostInput) : (State.atReset n inputs).Legal = true := rfl

/-- Settles O20: the control registers are cleared, so in `IDLE` every command is ready and no micro-operation is enabled. -/
theorem resetLeavesTheControlState : Obligations.ResetLeavesTheControlState := by
  refine ⟨fun s rest hin => ⟨_, step_reset hin⟩, rfl, fun n rest => ?_⟩
  have hidle : (State.atReset n rest).mode ≠ .busy := by simp
  refine ⟨rfl, rfl, rfl, rfl, rfl, rfl, rfl, rfl, ?_, fun w => ?_, fun i t' hi h => ?_⟩
  · simp [State.status, State.digestValidBit, State.busyBit, Mode.code]
  · exact ((State.atReset n rest).cmdReady_iff w).mpr (.inl hidle)
  · obtain ⟨-, hnone⟩ := exactlyOneMicroOperationWhileBusy _ (State.legal_atReset n rest)
    cases (hnone hidle i hi).symm.trans h

/-! ## Runs (R150, R205) -/

/-- A run of one more step that answers a state begins with a step that answers one. -/
theorem exists_step_of_run_succ {k : Nat} {s t : State} (h : core.run (k + 1) s = .next t) :
    ∃ u, step s = .next u ∧ core.run k u = .next t := by
  cases hs : step s with
  | next u => exact ⟨u, rfl, (run_succ_of_step hs k).symm.trans h⟩
  | fault r | refused r =>
    have hcore : core.step s = _ := hs
    simp [Host.Core.run, hcore] at h

/-- A run keeps what every step keeps. -/
theorem run_keeps {P : State → Prop} (hP : ∀ s t, P s → step s = .next t → P t) {k : Nat} {s t : State}
    (h : core.run k s = .next t) (hs : P s) : P t := by
  induction k generalizing s with
  | zero =>
    cases h
    exact hs
  | succ k ih =>
    obtain ⟨u, hu, hrun⟩ := exists_step_of_run_succ h
    exact ih hrun (hP s u hs hu)

/-- A legal state whose port stays quiet: the core is left to itself (R205). -/
structure State.LeftAlone (s : State) : Prop where
  legal : s.Legal = true
  quiet : s.inputs = []

/-- A step leaves a quiet port quiet. -/
theorem State.LeftAlone.step {s t : State} (hs : s.LeftAlone) (h : Machine.step s = .next t) : t.LeftAlone := by
  obtain ⟨hl, hin⟩ := hs
  refine ⟨stepKeepsLegal s t hl h, ?_⟩
  have hleft : s.inputsLeft = [] := by
    obtain hleft | hleft := s.inputsLeft_cases <;> simp [hleft, hin]
  obtain ⟨⟨rest, hr⟩, -⟩ | ⟨-, w, rest, hw, -⟩ | ⟨-, -, i, -, hx⟩ | ⟨-, -, rfl⟩ := step_cases h
  · simp [hin] at hr
  · simp [hin] at hw
  · exact (exec_effect hx).inputs_eq.trans hleft
  · exact hleft

/-- An instruction leaves a quiet port quiet. -/
theorem State.LeftAlone.exec {i : Instr} {s t : State} (hs : s.LeftAlone) (h : Machine.exec i s = .next t) :
    t.LeftAlone :=
  ⟨(exec_effect h).keeps_legal hs.legal, (exec_effect h).inputs_eq.trans hs.quiet⟩

/-- `BUSY` ends within as many steps as there are micro-operations to make (R205). -/
theorem State.LeftAlone.exists_run_le_work {s : State} (hs : s.LeftAlone) :
    ∃ k t, k ≤ s.work ∧ core.run k s = .next t ∧ t.mode ≠ .busy := by
  induction hn : s.work using Nat.strong_induction_on generalizing s with
  | _ n ih =>
    by_cases hm : s.mode = .busy
    · obtain ⟨u, hu⟩ := (legalStatesAlwaysStep s).1 hs.legal
      have hlt : u.work < s.work := by
        have hrest := stepsToRest_lt hs.legal (.inr hm) hu
        simpa [State.stepsToRest, hs.quiet, (hs.step hu).quiet] using hrest
      obtain ⟨k, t, hk, hrun, ht⟩ := ih u.work (hn ▸ hlt) (hs.step hu) rfl
      exact ⟨k + 1, t, by omega, (run_succ_of_step hu k).trans hrun, ht⟩
    · exact ⟨0, s, Nat.zero_le _, rfl, hm⟩

/-! ## How long `BUSY` lasts (R150, R205) -/

/-- The core left to itself is busy before each of the next `n` steps, and in mode `m` after them. -/
def State.BusyFor (u : State) (n : Nat) (m : Mode) : Prop :=
  (∀ k t, k < n → core.run k u = .next t → t.mode = .busy) ∧ ∃ t, core.run n u = .next t ∧ t.mode = m

/-- Two spells of `BUSY`, one after the other. -/
theorem State.BusyFor.of_run {u v : State} {a n : Nat} {m : Mode}
    (hbusy : ∀ k t, k < a → core.run k u = .next t → t.mode = .busy) (hrun : core.run a u = .next v)
    (hv : v.BusyFor n m) : u.BusyFor (a + n) m := by
  obtain ⟨hlater, t, ht, hm⟩ := hv
  refine ⟨fun k x hk hx => ?_, t, (run_add_of_next hrun n).trans ht, hm⟩
  by_cases hka : k < a
  · exact hbusy k x hka hx
  · obtain ⟨j, rfl⟩ := Nat.exists_eq_add_of_le (Nat.le_of_not_lt hka)
    rw [run_add_of_next hrun] at hx
    exact hlater j x (by omega) hx

section
variable {u : State} (hu : u.LeftAlone)
include hu

/-- From `LOAD` on, the core is busy before each of the 66 steps of the block (R126, R140). -/
theorem State.LeftAlone.busy_of_run_lt (hp : u.phase = .load) :
    ∀ k t, k < 66 → core.run k u = .next t → t.mode = .busy := by
  obtain ⟨hl, hin⟩ := hu
  obtain ⟨hbusy, -⟩ := u.legal_iff.mp hl
  have hm : u.mode = .busy := hbusy.mpr (by simp [hp])
  intro k t hk h
  cases k with
  | zero =>
    cases h
    exact hm
  | succ n =>
    rw [State.run_to_beforeRound hl hm hin hp (by omega)] at h
    cases h
    exact hm

/-- A full message block keeps the core busy for 66 steps (R101, R205). -/
theorem State.LeftAlone.busyFor_absorb (hp : u.phase = .load) (hn : u.next = .absorb) : u.BusyFor 66 .absorb := by
  obtain ⟨t, hrun, -, -, -, -, -, habsorb, -⟩ := oneBlockIsCompress u hu.legal hp hu.quiet
  exact ⟨hu.busy_of_run_lt hp, t, hrun, habsorb hn⟩

/-- The last block keeps the core busy for 66 steps (R103, R205). -/
theorem State.LeftAlone.busyFor_done (hp : u.phase = .load) (hn : u.next = .done) : u.BusyFor 66 .done := by
  obtain ⟨t, hrun, -, -, -, -, -, -, hdone, -⟩ := oneBlockIsCompress u hu.legal hp hu.quiet
  exact ⟨hu.busy_of_run_lt hp, t, hrun, hdone hn⟩

/-- `PAD2` and the block it builds keep the core busy for 67 steps (R107, R205). -/
theorem State.LeftAlone.busyFor_done_of_pad2 (hm : u.mode = .busy) (hp : u.phase = .pad2) : u.BusyFor (1 + 66) .done := by
  obtain ⟨-, -, ht, -⟩ := (State.legal_iff_of_busy hm).mp hu.legal
  have hpad2 : ({ u with rsp := none } : State).enabled .pad2 = true :=
    (State.enabled_pad2 _).mpr ⟨hm, hp, ht (by simp [hp])⟩
  have hstep := step_of_exec_quiet (i := .pad2) hu.legal hm hu.quiet rfl (State.ifEnabled_of_enabled hpad2 _)
  refine .of_run (fun k t hk h => ?_) (run_succ_of_step hstep 0) ((hu.step hstep).busyFor_done rfl rfl)
  obtain rfl : k = 0 := by omega
  cases h
  exact hm

/-- The first of two final blocks, `PAD2` and the second one keep the core busy for 133 steps (R103, R107, R205). -/
theorem State.LeftAlone.busyFor_done_of_two (hp : u.phase = .load) (hn : u.next = .pad2) : u.BusyFor (66 + 67) .done := by
  obtain ⟨v, hrun, -, -, -, -, -, -, -, hpad2⟩ := oneBlockIsCompress u hu.legal hp hu.quiet
  obtain ⟨hm, hphase⟩ := hpad2 hn
  have hv : v.LeftAlone := run_keeps (fun _ _ hs h => hs.step h) hrun hu
  exact .of_run (hu.busy_of_run_lt hp) hrun (hv.busyFor_done_of_pad2 hm hphase)

end

/-- An `UPDATE` that leads from `ABSORB` into `BUSY` leaves a full message block to `LOAD` (R101). -/
theorem State.loads_of_update {b : Byte} {s u : State} (hs : s.mode = .absorb) (h : exec (.update b) s = .next u)
    (hu : u.mode = .busy) : u.phase = .load ∧ u.next = .absorb := by
  obtain ⟨hm, -⟩ | ⟨-, hm, -⟩ | ⟨-, -, rfl⟩ | ⟨-, -, rfl⟩ := execUpdate_next h
  · simp [hs] at hm
  · exact absurd hs hm
  · simp at hu
  · by_cases hf : s.fill = 63
    · obtain ⟨-, hphase, hnext⟩ := State.absorbByte_control_of_full hf b
      exact ⟨hphase, hnext⟩
    · obtain ⟨hmode, -⟩ := State.absorbByte_control_of_not_full hf b
      simp [hmode, hs] at hu

/-- Settles O54: the micro-operations still to make bound `BUSY`, and one block is 66 of them, two blocks with `PAD2` 133. -/
theorem busyEndsWithin133Steps : Obligations.BusyEndsWithin133Steps := by
  refine ⟨fun s hl hin => ?_, fun b s u hl hin hm h hu => ?_, fun data s u hl hin hm h => ?_⟩
  · obtain ⟨k, t, hk, ht⟩ := State.LeftAlone.exists_run_le_work ⟨hl, hin⟩
    exact ⟨k, t, hk.trans s.work_le, ht⟩
  · obtain ⟨hphase, hnext⟩ := State.loads_of_update hm h hu
    exact (State.LeftAlone.exec ⟨hl, hin⟩ h).busyFor_absorb hphase hnext
  · have halone := State.LeftAlone.exec ⟨hl, hin⟩ h
    rw [exec_final_of_absorb hm] at h
    obtain rfl := Host.Outcome.next.inj h
    have hphase : (s.finalise.respond 0).phase = .load := by simp
    have hnext : (s.finalise.respond 0).next = if s.fill.toNat ≤ 55 then .done else .pad2 := s.finalise_next
    rw [← State.fill_toNat]
    by_cases hf : s.fill.toNat ≤ 55
    · simp only [if_pos hf] at hnext ⊢
      exact halone.busyFor_done hphase hnext
    · simp only [if_neg hf] at hnext ⊢
      exact halone.busyFor_done_of_two hphase hnext

end Sys2Proof.Machine
end

section
/-! PROOF. Noninterference of the values reset leaves unspecified (70_reset_and_hazards.md R191, R197): every one is written
before it is read, so two runs that differ in them alone show the same to the outside. -/

namespace Sys2Proof.Machine

/-! ## Two states that show the same (R191, R197) -/

/-- The two states differ in unspecified registers only, and they agree on those a context in progress goes on to read: `LEN`,
and `BLK` as far as it is filled or where it waits for `LOAD`. That `H`, `R` and `W` agree where they are read is left to
`State.Chained`, which makes them functions of the record. -/
structure Agree (s₁ s₂ : State) : Prop where
  same : SameButUnspecified s₁ s₂
  lenHi : s₁.mode = .absorb ∨ s₁.mode = .busy → s₁.lenHi = s₂.lenHi
  filled : s₁.mode = .absorb → ∀ (j : Nat) (hj : j < 64), j < s₁.fill.toNat → s₁.blk[j] = s₂.blk[j]
  loading : s₁.mode = .busy → s₁.phase = .load → s₁.blk = s₂.blk

/-- Whatever next state the first answers, the second answers one that agrees with it. -/
def AgreeOnNext (r₁ r₂ : Result) : Prop := ∀ t₁, r₁ = .next t₁ → ∃ t₂, r₂ = .next t₂ ∧ Agree t₁ t₂

/-- Every state agrees with itself. -/
theorem Agree.refl (s : State) : Agree s s := ⟨rfl, fun _ => rfl, fun _ _ _ _ => rfl, fun _ _ => rfl⟩

section
variable {s₁ s₂ : State}

/-- Next states agree as answers where they agree as states. -/
theorem Agree.next (h : Agree s₁ s₂) : AgreeOnNext (.next s₁) (.next s₂) := by
  intro t₁ ht
  cases ht
  exact ⟨s₂, rfl, h⟩

/-- The second state is the first with other values in the unspecified registers. -/
theorem SameButUnspecified.exists_eq (h : SameButUnspecified s₁ s₂) :
    ∃ blk lenHi w r hash, s₂ = { s₁ with blk := blk, lenHi := lenHi, w := w, r := r, h := hash } :=
  ⟨_, _, _, _, _, h⟩

/-- Neither whose turn it is nor what the outside sees depends on an unspecified register (R10, R191, R197). -/
theorem SameButUnspecified.turn_eq (h : SameButUnspecified s₁ s₂) :
    s₁.nextTurn = s₂.nextTurn ∧ s₁.observe = s₂.observe := by
  obtain ⟨_, _, _, _, _, rfl⟩ := h.exists_eq
  exact ⟨rfl, rfl⟩

/-- Neither the mode nor the phase nor the record is an unspecified register (R191). -/
theorem SameButUnspecified.control_eq (h : SameButUnspecified s₁ s₂) :
    s₁.mode = s₂.mode ∧ s₁.phase = s₂.phase ∧ s₁.blkTrace = s₂.blkTrace := by
  obtain ⟨_, _, _, _, _, rfl⟩ := h.exists_eq
  exact ⟨rfl, rfl, rfl⟩

/-- In `DONE` the chaining invariant fixes `H` by the record (R138). -/
theorem SameButUnspecified.h_eq_of_done (h : SameButUnspecified s₁ s₂) (hc₁ : s₁.Chained) (hc₂ : s₂.Chained)
    (hm : s₁.mode = .done) : s₁.h = s₂.h := by
  obtain ⟨hmode, -, htrace⟩ := h.control_eq
  rw [State.chained_iff_of_between (.inr (.inl hm))] at hc₁
  rw [State.chained_iff_of_between (.inr (.inl (hmode ▸ hm)))] at hc₂
  rw [hc₁, hc₂, htrace]

/-- Before `FOLD` the chaining invariant fixes `BLK` by the record, whose last Block it is (R27, R138). -/
theorem SameButUnspecified.blk_eq_of_fold (h : SameButUnspecified s₁ s₂) (hc₁ : s₁.Chained) (hc₂ : s₂.Chained)
    (hm : s₁.mode = .busy) (hp : s₁.phase = .fold) : s₁.blk = s₂.blk := by
  obtain ⟨hmode, hphase, htrace⟩ := h.control_eq
  obtain ⟨before₁, hb₁, -⟩ := (State.chained_iff_of_fold hm hp).mp hc₁
  obtain ⟨before₂, hb₂, -⟩ := (State.chained_iff_of_fold (hmode ▸ hm) (hphase ▸ hp)).mp hc₂
  have hlast : before₁ ++ [s₁.blk] = before₂ ++ [s₂.blk] := hb₁.symm.trans (htrace.trans hb₂)
  obtain ⟨-, hblk⟩ := List.append_inj' hlast rfl
  exact List.singleton_inj.mp hblk

/-- `FINAL`'s padding reads the filled bytes only (R103). -/
theorem padFrom_congr {blk₁ blk₂ : Block} {fill : BitVec 6}
    (h : ∀ (j : Nat) (hj : j < 64), j < fill.toNat → blk₁[j] = blk₂[j]) : padFrom blk₁ fill = padFrom blk₂ fill := by
  ext j hj : 1
  rw [padFrom_getElem, padFrom_getElem]
  by_cases hlt : j < fill.toNat
  · rw [if_pos hlt, if_pos hlt, h j hj hlt]
  · rw [if_neg hlt, if_neg hlt]

/-! ## Effects on two states that agree -/

section
variable (h : Agree s₁ s₂)
include h

/-- In `ABSORB` the length and the fill index agree (R24). -/
theorem Agree.len_eq (hm : s₁.mode = .absorb) : s₁.len = s₂.len ∧ s₁.fill = s₂.fill := by
  simp only [State.fill_eq, State.len_eq, h.lenHi (.inl hm), and_self]

/-- Taking an input keeps two states agreeing. -/
theorem Agree.beginTurn : Agree s₁.beginTurn s₂.beginTurn :=
  ⟨congrArg State.beginTurn h.same, h.lenHi, h.filled, h.loading⟩

/-- The same response keeps two states agreeing. -/
theorem Agree.respond (v : Byte) : Agree (s₁.respond v) (s₂.respond v) :=
  ⟨congrArg (State.respond · v) h.same, h.lenHi, h.filled, h.loading⟩

/-- An exception keeps two states agreeing; InputTooLarge ends the context (R171, R172, R173). -/
theorem Agree.raise (e : Exn) : Agree (s₁.raise e) (s₂.raise e) := by
  cases e with
  | inputTooLarge => exact ⟨congrArg (State.raise · .inputTooLarge) h.same, by simp, by simp, by simp⟩
  | sequenceError => exact ⟨congrArg (State.raise · .sequenceError) h.same, h.lenHi, h.filled, h.loading⟩
  | illegalCommand => exact ⟨congrArg (State.raise · .illegalCommand) h.same, h.lenHi, h.filled, h.loading⟩

/-- A new context has `LEN = 0` and so nothing filled (R152). -/
theorem Agree.initContext : Agree s₁.initContext s₂.initContext where
  same := congrArg State.initContext h.same
  lenHi _ := rfl
  filled _ _ _ hlt := by simp [State.fill_eq] at hlt
  loading hm := by simp at hm

/-- An absorbed byte is stored at the same place, next to the filled ones (R101). -/
theorem Agree.absorbByte (hm : s₁.mode = .absorb) (hmax : s₁.len ≠ maxLen) (b : Byte) :
    Agree (s₁.absorbByte b) (s₂.absorbByte b) := by
  obtain ⟨hlen, hfill⟩ := h.len_eq hm
  have hlenHi : (s₁.absorbByte b).lenHi = (s₂.absorbByte b).lenHi := by simp [hlen]
  have hstored : ∀ (j : Nat) (hj : j < 64), j < s₁.fill.toNat + 1 →
      (s₁.absorbByte b).blk[j] = (s₂.absorbByte b).blk[j] := by
    intro j hj hlt
    by_cases hlast : j = s₁.fill.toNat
    · simp [hlast, hfill]
    · rw [State.absorbByte_blk_getElem_of_ne _ _ hj hlast, State.absorbByte_blk_getElem_of_ne _ _ hj (hfill ▸ hlast)]
      exact h.filled hm j hj (by omega)
  by_cases hf : s₁.fill = 63
  · obtain ⟨hbusy, -, -⟩ := State.absorbByte_control_of_full hf b
    have hfull : s₁.fill.toNat = 63 := by simp [hf]
    refine ⟨?_, fun _ => hlenHi, by simp [hbusy], fun _ _ => Vector.ext fun j hj => hstored j hj (by omega)⟩
    rw [State.absorbByte_of_full hf, State.absorbByte_of_full (hfill ▸ hf)]
    obtain ⟨_, _, _, _, _, rfl⟩ := h.same.exists_eq
    rfl
  · obtain ⟨hmode, -, -⟩ := State.absorbByte_control_of_not_full hf b
    refine ⟨?_, fun _ => hlenHi, fun _ j hj hlt => hstored j hj ?_, by simp [hmode, hm]⟩
    · rw [State.absorbByte_of_not_full hf, State.absorbByte_of_not_full (hfill ▸ hf)]
      obtain ⟨_, _, _, _, _, rfl⟩ := h.same.exists_eq
      rfl
    · rwa [State.absorbByte_fill_toNat hmax hf] at hlt

/-- `FINAL` leaves the same block for `LOAD`: it reads the filled bytes and `LEN` (R103). -/
theorem Agree.finalise (hm : s₁.mode = .absorb) : Agree s₁.finalise s₂.finalise := by
  obtain ⟨hlen, hfill⟩ := h.len_eq hm
  have hpadded : padFrom s₁.blk s₁.fill = padFrom s₂.blk s₂.fill := hfill ▸ padFrom_congr (h.filled hm)
  have hblk : s₁.finalise.blk = s₂.finalise.blk := by
    ext j hj : 1
    rw [State.finalise_blk_getElem, State.finalise_blk_getElem, hpadded, hlen, hfill]
  refine ⟨?_, fun _ => by simpa using h.lenHi (.inl hm), by simp, fun _ _ => hblk⟩
  obtain ⟨_, _, _, _, _, rfl⟩ := h.same.exists_eq
  by_cases hf : s₁.fill.toNat ≤ 55
  · rw [State.finalise_of_short hf, State.finalise_of_short (hfill ▸ hf)]
    rfl
  · rw [State.finalise_of_long hf, State.finalise_of_long (hfill ▸ hf)]
    rfl

/-! ## Instructions on two states that agree -/

/-- The hold lets two states agree (R150). -/
theorem Agree.unlessHeld {a₁ a₂ : State} (ha : Agree a₁ a₂) :
    AgreeOnNext (unlessHeld s₁ a₁) (unlessHeld s₂ a₂) := by
  obtain ⟨hmode, -⟩ := h.same.control_eq
  by_cases hm : s₁.mode = .busy
  · rw [unlessHeld_of_busy hm, unlessHeld_of_busy (hmode ▸ hm)]
    exact h.next
  · rw [unlessHeld_of_not_busy hm, unlessHeld_of_not_busy (hmode ▸ hm)]
    exact ha.next

/-- The mode check lets two states agree (R150, R172). -/
theorem Agree.inMode {m : Mode} {a₁ a₂ : State} (ha : s₁.mode = m → Agree a₁ a₂) :
    Agree (s₁.inMode m a₁) (s₂.inMode m a₂) := by
  obtain ⟨hmode, -⟩ := h.same.control_eq
  by_cases hm : s₁.mode = m
  · rw [State.inMode_of_eq hm, State.inMode_of_eq (hmode ▸ hm)]
    exact ha hm
  · rw [State.inMode_of_ne hm, State.inMode_of_ne (hmode ▸ hm)]
    exact h.raise .sequenceError

/-- The same micro-operations are enabled in both states (R65). -/
theorem Agree.ifEnabled {i : Instr} {r₁ r₂ : Result} (hr : s₁.enabled i = true → AgreeOnNext r₁ r₂) :
    AgreeOnNext (s₁.ifEnabled i r₁) (s₂.ifEnabled i r₂) := by
  have henabled : s₁.enabled i = s₂.enabled i := by
    obtain ⟨_, _, _, _, _, rfl⟩ := h.same.exists_eq
    rfl
  by_cases he : s₁.enabled i = true
  · rw [State.ifEnabled_of_enabled he, State.ifEnabled_of_enabled (henabled ▸ he)]
    exact hr he
  · intro t₁ ht
    obtain ⟨he', -⟩ := State.ifEnabled_next ht
    exact absurd he' he

/-- A word that is no command is refused in both states (R157). -/
theorem Agree.illegalCommand : AgreeOnNext (illegalCommand s₁) (illegalCommand s₂) :=
  h.unlessHeld (h.raise .illegalCommand)

/-- `UPDATE` (R101). -/
theorem Agree.execUpdate (b : Byte) : AgreeOnNext (execUpdate b s₁) (execUpdate b s₂) := by
  refine h.unlessHeld (h.inMode fun hm => ?_)
  obtain ⟨hlen, -⟩ := h.len_eq hm
  by_cases hmax : s₁.len = maxLen
  · rw [State.updateByte, State.updateByte, if_pos hmax, if_pos (hlen ▸ hmax)]
    exact h.raise .inputTooLarge
  · rw [State.updateByte, State.updateByte, if_neg hmax, if_neg (hlen ▸ hmax)]
    exact (h.absorbByte hm hmax b).respond 0

/-- `LOAD` records the same Block (R123). -/
theorem Agree.execLoad : AgreeOnNext (execLoad s₁) (execLoad s₂) := by
  refine h.ifEnabled fun he => Agree.next ?_
  obtain ⟨hm, hp, -⟩ := s₁.enabled_load.mp he
  refine ⟨?_, h.lenHi, by simp [hm], by simp⟩
  rw [h.loading hm hp]
  obtain ⟨_, _, _, _, _, rfl⟩ := h.same.exists_eq
  rfl

/-- `ROUND` writes nothing but `W`, `R` and the sequencer (R135). -/
theorem Agree.execRound (u : BitVec 6) : AgreeOnNext (execRound u s₁) (execRound u s₂) := by
  refine h.ifEnabled fun he => Agree.next ?_
  obtain ⟨hm, -⟩ := (s₁.enabled_round u).mp he
  refine ⟨?_, h.lenHi, by simp [hm], fun _ hp => ?_⟩
  · obtain ⟨_, _, _, _, _, rfl⟩ := h.same.exists_eq
    rfl
  · change (if u = 63 then Phase.fold else Phase.round) = .load at hp
    split at hp <;> cases hp

/-- `PAD2` builds the same Block from `LEN` (R107). -/
theorem Agree.execPad2 : AgreeOnNext (execPad2 s₁) (execPad2 s₂) := by
  refine h.ifEnabled fun he => Agree.next ?_
  obtain ⟨hm, -⟩ := s₁.enabled_pad2.mp he
  refine ⟨?_, h.lenHi, by simp [hm], fun _ _ => ?_⟩
  · obtain ⟨_, _, _, _, _, rfl⟩ := h.same.exists_eq
    rfl
  · simp only [State.len_eq, h.lenHi (.inr hm)]

variable (hc₁ : s₁.Chained) (hc₂ : s₂.Chained)
include hc₁ hc₂

/-- `RDDIGEST` in `DONE` reads `H`, which the record fixes (R155). -/
theorem Agree.execRddigest (k : BitVec 5) : AgreeOnNext (execRddigest k s₁) (execRddigest k s₂) := by
  refine h.unlessHeld (h.inMode fun hm => ?_)
  rw [h.same.h_eq_of_done hc₁ hc₂ hm]
  exact h.respond _

/-- `FOLD` leaves the buffer, which the record fixes, to the next bytes (R137). -/
theorem Agree.execFold : AgreeOnNext (execFold s₁) (execFold s₂) := by
  refine h.ifEnabled fun he => ?_
  obtain ⟨hm, hp, -⟩ := s₁.enabled_fold.mp he
  have hblk := h.same.blk_eq_of_fold hc₁ hc₂ hm hp
  have hlenHi := h.lenHi (.inr hm)
  obtain ⟨_, _, _, _, _, rfl⟩ := h.same.exists_eq
  cases s₁.next with
  | none => simp [State.afterFold, AgreeOnNext]
  | absorb | done | pad2 =>
    simp only [State.afterFold]
    exact Agree.next ⟨rfl, fun _ => hlenHi, fun _ j hj _ => congrArg (·[j]) hblk, by simp⟩

/-- Every instruction keeps two states agreeing (R197). -/
theorem Agree.exec (i : Instr) : AgreeOnNext (exec i s₁) (exec i s₂) := by
  cases i with
  | nop => exact (h.respond 0).next
  | init => exact h.unlessHeld h.initContext
  | update b => exact h.execUpdate b
  | final => exact h.unlessHeld (h.inMode fun hm => (h.finalise hm).respond 0)
  | rddigest k => exact h.execRddigest hc₁ hc₂ k
  | rdstat =>
    obtain ⟨-, hobserve⟩ := h.same.turn_eq
    have hstatus : s₁.status = s₂.status := congrArg Observation.status hobserve
    refine Agree.next ?_
    rw [hstatus]
    exact h.respond _
  | load => exact h.execLoad
  | round u => exact h.execRound u
  | fold => exact h.execFold hc₁ hc₂
  | pad2 => exact h.execPad2
  | _ => exact h.illegalCommand

/-! ## Runs from two states that agree -/

/-- Every step keeps two states agreeing: it is the same turn in both (R197). -/
theorem Agree.step : AgreeOnNext (step s₁) (step s₂) := by
  obtain ⟨hturn, -⟩ := h.same.turn_eq
  unfold Machine.step
  rw [← hturn]
  split
  · have hreset : s₁.beginTurn.assertReset = s₂.beginTurn.assertReset := by
      obtain ⟨_, _, _, _, _, rfl⟩ := h.same.exists_eq
      rfl
    rw [hreset]
    exact (Agree.refl _).next
  · exact h.beginTurn.exec hc₁ hc₂ _
  · exact h.beginTurn.next
  · exact nofun

end

end

/-- The chaining invariant is kept by every step, also from a state that is not legal (R138). -/
theorem State.Chained.step {s t : State} (hc : s.Chained) (h : Machine.step s = .next t) : t.Chained :=
  step_keeps (P := State.Chained) (fun _ _ => trivial) (fun _ hs => hs) (fun _ hs he => he.keeps_chained hs) hc h

/-- In `IDLE` the chaining invariant claims nothing (R138). -/
theorem State.chained_of_idle {s : State} (hm : s.mode = .idle) : s.Chained := by
  simp only [State.Chained, hm]

/-- Runs of one length from two states that agree end in two that agree (R197). -/
theorem Agree.run {s₁ s₂ : State} (h : Agree s₁ s₂) (hc₁ : s₁.Chained) (hc₂ : s₂.Chained) (k : Nat) :
    AgreeOnNext (core.run k s₁) (core.run k s₂) := by
  induction k generalizing s₁ s₂ with
  | zero => exact h.next
  | succ k ih =>
    intro t₁ hrun
    obtain ⟨u₁, hu₁, hrest⟩ := exists_step_of_run_succ hrun
    obtain ⟨u₂, hu₂, hu⟩ := h.step hc₁ hc₂ u₁ hu₁
    obtain ⟨t₂, ht₂, ht⟩ := ih hu (hc₁.step hu₁) (hc₂.step hu₂) t₁ hrest
    exact ⟨t₂, (run_succ_of_step hu₂ k).trans ht₂, ht⟩

/-- Settles O57: in `IDLE` there is no context that would read an unspecified register, so the two states agree, and with
them their runs. -/
theorem unspecifiedValuesAreNeverSeen : Obligations.UnspecifiedValuesAreNeverSeen := by
  intro s₁ s₂ t₁ k _ hm hsame hrun
  obtain ⟨hmode, -⟩ := hsame.control_eq
  have hagree : Agree s₁ s₂ := ⟨hsame, by simp [hm], by simp [hm], by simp [hm]⟩
  obtain ⟨t₂, ht₂, ht⟩ := hagree.run (State.chained_of_idle hm) (State.chained_of_idle (hmode ▸ hm)) k t₁ hrun
  obtain ⟨-, hobserve⟩ := ht.same.turn_eq
  exact ⟨t₂, ht₂, hobserve.symm⟩

end Sys2Proof.Machine
end
